-- ==== Sys2Proof/Word.lean ====
section
/-! DEFINITION. The value types of the hardware: bytes, words, 12-bit addresses and the two kinds of index
(spec 00_scope.md R6, R7; 10_state.md R20, R34). -/

namespace Sys2Proof

/-- An 8-bit value: a general register, a timer, a byte of memory (R20, R28, R29). -/
abbrev Byte := BitVec 8

/-- A 16-bit value: an instruction word, `pc`, `I`, a stack entry, `fault_info` (R23, R24, R26, R33, R70). -/
abbrev Word := BitVec 16

/-- The 12-bit immediate address `nnn` (R72). -/
abbrev Addr12 := BitVec 12

/-- The number of a general register, 0 to 15 (R20). -/
abbrev RegIdx := Fin 16

/-- The number of a key, 0 to 15 (R34, R182). -/
abbrev KeyIdx := Fin 16

end Sys2Proof
end

