-- ==== Sys2Proof/Syntax.lean ====
section
/-! DEFINITION. The instruction set: one constructor per row of spec/opcode_table.json (35 rows; spec 30_encoding.md
R75). Operands are the fields the table gives the row; a field the decoder ignores and no rule names (the low nibble
of 5xyN and 9xyN, R80) is not kept. -/

namespace Sys2Proof

/-- The 35 instructions. -/
inductive Instr where
  /-- `00E0` CLS (R161). -/
  | cls
  /-- `00EE` RET (R101). -/
  | ret
  /-- `0nnn` SYS addr (R100), `nnn` other than 0x0E0 and 0x0EE. -/
  | sys (nnn : Addr12)
  /-- `1nnn` JP addr (R102). -/
  | jp (nnn : Addr12)
  /-- `2nnn` CALL addr (R103). -/
  | call (nnn : Addr12)
  /-- `3xkk` SE Vx, byte (R104). -/
  | seByte (x : RegIdx) (kk : Byte)
  /-- `4xkk` SNE Vx, byte (R105). -/
  | sneByte (x : RegIdx) (kk : Byte)
  /-- `5xy0` SE Vx, Vy (R106). -/
  | seReg (x y : RegIdx)
  /-- `6xkk` LD Vx, byte (R120). -/
  | ldByte (x : RegIdx) (kk : Byte)
  /-- `7xkk` ADD Vx, byte (R121). -/
  | addByte (x : RegIdx) (kk : Byte)
  /-- `8xy0` LD Vx, Vy (R122). -/
  | ldReg (x y : RegIdx)
  /-- `8xy1` OR Vx, Vy (R123). -/
  | orReg (x y : RegIdx)
  /-- `8xy2` AND Vx, Vy (R124). -/
  | andReg (x y : RegIdx)
  /-- `8xy3` XOR Vx, Vy (R125). -/
  | xorReg (x y : RegIdx)
  /-- `8xy4` ADD Vx, Vy (R126). -/
  | addReg (x y : RegIdx)
  /-- `8xy5` SUB Vx, Vy (R127). -/
  | subReg (x y : RegIdx)
  /-- `8xy6` SHR Vx (R128); the field `y` is in the word and ignored (R80). -/
  | shr (x y : RegIdx)
  /-- `8xy7` SUBN Vx, Vy (R129). -/
  | subnReg (x y : RegIdx)
  /-- `8xyE` SHL Vx (R130); the field `y` is in the word and ignored (R80). -/
  | shl (x y : RegIdx)
  /-- `9xy0` SNE Vx, Vy (R107). -/
  | sneReg (x y : RegIdx)
  /-- `Annn` LD I, addr (R140). -/
  | ldI (nnn : Addr12)
  /-- `Bnnn` JP V0, addr (R108). -/
  | jpV0 (nnn : Addr12)
  /-- `Cxkk` RND Vx, byte (R150). -/
  | rnd (x : RegIdx) (kk : Byte)
  /-- `Dxyn` DRW Vx, Vy, n (R162). -/
  | drw (x y : RegIdx) (n : Fin 16)
  /-- `Ex9E` SKP Vx (R151). -/
  | skp (x : RegIdx)
  /-- `ExA1` SKNP Vx (R152). -/
  | sknp (x : RegIdx)
  /-- `Fx07` LD Vx, DT (R153). -/
  | ldVxDT (x : RegIdx)
  /-- `Fx0A` LD Vx, K (R154). -/
  | ldVxK (x : RegIdx)
  /-- `Fx15` LD DT, Vx (R155). -/
  | ldDTVx (x : RegIdx)
  /-- `Fx18` LD ST, Vx (R156). -/
  | ldSTVx (x : RegIdx)
  /-- `Fx1E` ADD I, Vx (R141). -/
  | addI (x : RegIdx)
  /-- `Fx29` LD F, Vx (R143). -/
  | ldF (x : RegIdx)
  /-- `Fx33` LD B, Vx (R144). -/
  | ldB (x : RegIdx)
  /-- `Fx55` LD [I], Vx (R145). -/
  | stRegs (x : RegIdx)
  /-- `Fx65` LD Vx, [I] (R146). -/
  | ldRegs (x : RegIdx)
  deriving DecidableEq, Repr

end Sys2Proof
end

