-- ==== Sys2Proof/Decode.lean ====
section
/-! DEFINITION. The bit fields and byte order of an instruction word, the decoder (spec 30_encoding.md R70 to R80) and,
after it, the encoder (R71, R75). The decoder is total: a word with no instruction is rejected as `illegal` with its
word, fewer than two bytes as `truncated`. -/

namespace Sys2Proof

/-! ### Byte order (20_memory.md R52) -/

/-- The big-endian word of two bytes: the byte at the lower address is the high byte. -/
def wordOfBytes (hi lo : Byte) : Word := hi ++ lo

/-- The byte of a word that lies at the lower address. -/
def Word.hiByte (w : Word) : Byte := w.extractLsb' 8 8

/-- The byte of a word that lies at the higher address. -/
def Word.loByte (w : Word) : Byte := w.extractLsb' 0 8

/-! ### Fields (R72) -/

/-- `f = w[15:12]`, the family selector. -/
def fieldF (w : Word) : BitVec 4 := w.extractLsb' 12 4

/-- `x = w[11:8]`, a register index. -/
def fieldX (w : Word) : RegIdx := (w.extractLsb' 8 4).toFin

/-- `y = w[7:4]`, a register index. -/
def fieldY (w : Word) : RegIdx := (w.extractLsb' 4 4).toFin

/-- `n = w[3:0]`, a 4-bit immediate or sub-opcode. -/
def fieldN (w : Word) : Fin 16 := (w.extractLsb' 0 4).toFin

/-- `kk = w[7:0]`, an 8-bit immediate or sub-opcode. -/
def fieldKK (w : Word) : Byte := w.extractLsb' 0 8

/-- `nnn = w[11:0]`, a 12-bit address. -/
def fieldNNN (w : Word) : Addr12 := w.extractLsb' 0 12

/-! ### The decoder -/

/-- What the decoder answers for one word: an instruction, or the rejection the spec calls `DecodeError(w)`. -/
inductive Decoded where
  /-- the word is this instruction -/
  | instr (i : Instr)
  /-- no instruction has this word (R79) -/
  | illegal (w : Word)
  deriving DecidableEq, Repr

/-- Family 0 dispatches on the whole `nnn` and rejects nothing (R74). -/
def decodeFamily0 (nnn : Addr12) : Instr :=
  if nnn = 0x0E0#12 then .cls else if nnn = 0x0EE#12 then .ret else .sys nnn

/-- Family 8 dispatches on `n` (R77). -/
def decodeFamily8 (w : Word) : Decoded :=
  match (fieldN w).val with
  | 0x0 => .instr (.ldReg (fieldX w) (fieldY w))
  | 0x1 => .instr (.orReg (fieldX w) (fieldY w))
  | 0x2 => .instr (.andReg (fieldX w) (fieldY w))
  | 0x3 => .instr (.xorReg (fieldX w) (fieldY w))
  | 0x4 => .instr (.addReg (fieldX w) (fieldY w))
  | 0x5 => .instr (.subReg (fieldX w) (fieldY w))
  | 0x6 => .instr (.shr (fieldX w) (fieldY w))
  | 0x7 => .instr (.subnReg (fieldX w) (fieldY w))
  | 0xE => .instr (.shl (fieldX w) (fieldY w))
  | _ => .illegal w

/-- Family E dispatches on `kk` (R78). -/
def decodeFamilyE (w : Word) : Decoded :=
  match (fieldKK w).toNat with
  | 0x9E => .instr (.skp (fieldX w))
  | 0xA1 => .instr (.sknp (fieldX w))
  | _ => .illegal w

/-- Family F dispatches on `kk` (R78). -/
def decodeFamilyF (w : Word) : Decoded :=
  match (fieldKK w).toNat with
  | 0x07 => .instr (.ldVxDT (fieldX w))
  | 0x0A => .instr (.ldVxK (fieldX w))
  | 0x15 => .instr (.ldDTVx (fieldX w))
  | 0x18 => .instr (.ldSTVx (fieldX w))
  | 0x1E => .instr (.addI (fieldX w))
  | 0x29 => .instr (.ldF (fieldX w))
  | 0x33 => .instr (.ldB (fieldX w))
  | 0x55 => .instr (.stRegs (fieldX w))
  | 0x65 => .instr (.ldRegs (fieldX w))
  | _ => .illegal w

/-- The decoder of R76, on the family selector `f` (R73). The last arm is family F: a 4-bit selector that is none of 0
to 14 is 15. -/
def decodeWord (w : Word) : Decoded :=
  match (fieldF w).toNat with
  | 0x0 => .instr (decodeFamily0 (fieldNNN w))
  | 0x1 => .instr (.jp (fieldNNN w))
  | 0x2 => .instr (.call (fieldNNN w))
  | 0x3 => .instr (.seByte (fieldX w) (fieldKK w))
  | 0x4 => .instr (.sneByte (fieldX w) (fieldKK w))
  | 0x5 => .instr (.seReg (fieldX w) (fieldY w))
  | 0x6 => .instr (.ldByte (fieldX w) (fieldKK w))
  | 0x7 => .instr (.addByte (fieldX w) (fieldKK w))
  | 0x8 => decodeFamily8 w
  | 0x9 => .instr (.sneReg (fieldX w) (fieldY w))
  | 0xA => .instr (.ldI (fieldNNN w))
  | 0xB => .instr (.jpV0 (fieldNNN w))
  | 0xC => .instr (.rnd (fieldX w) (fieldKK w))
  | 0xD => .instr (.drw (fieldX w) (fieldY w) (fieldN w))
  | 0xE => decodeFamilyE w
  | _ => decodeFamilyF w

/-- What the decoder answers for a sequence of bytes, with the bytes after the two it reads. -/
inductive BytesDecoded where
  /-- the first two bytes are this instruction -/
  | instr (i : Instr) (rest : List Byte)
  /-- the first two bytes are a word that no instruction has (R79) -/
  | illegal (w : Word) (rest : List Byte)
  /-- fewer than two bytes: no word to decode (R70) -/
  | truncated
  deriving DecidableEq, Repr

/-- Decoding any bytes: one big-endian word (R70). -/
def decodeBytes : List Byte → BytesDecoded
  | hi :: lo :: rest =>
    match decodeWord (wordOfBytes hi lo) with
    | .instr i => .instr i rest
    | .illegal w => .illegal w rest
  | _ => .truncated

/-- The bits `w` of a row of spec/opcode_table.json (bit 0 the least significant bit of the 16-bit word; every bit from
`nbits` on is 0) laid out as memory holds them. -/
def tableBytes (nbits w : Nat) : List Byte :=
  let word : Word := BitVec.ofNat 16 (w % 2 ^ nbits)
  [word.hiByte, word.loByte]

/-- The instruction the decoder reads from a table word. -/
def decodeTableWord (nbits w : Nat) : Option Instr :=
  match decodeBytes (tableBytes nbits w) with
  | .instr i _ => some i
  | .illegal _ _ => none
  | .truncated => none

/-! ### The encoder (R71, R75) -/

/-- Format NNN: `f nnn`. -/
def wordNNN (f : Nat) (nnn : Addr12) : Word := BitVec.ofNat 16 (0x1000 * f + nnn.toNat)

/-- Format XKK: `f x kk`; also format X, with the sub-opcode as `kk`. -/
def wordXKK (f : Nat) (x : RegIdx) (kk : Byte) : Word :=
  BitVec.ofNat 16 (0x1000 * f + 0x100 * x.val + kk.toNat)

/-- Format XYN: `f x y n`; also format XY, with the sub-opcode as `n`. -/
def wordXYN (f : Nat) (x y : RegIdx) (n : Fin 16) : Word :=
  BitVec.ofNat 16 (0x1000 * f + 0x100 * x.val + 0x10 * y.val + n.val)

/-- The canonical word of an instruction (R75; the don't-care nibble of 5xy_ and 9xy_ is 0, R80). -/
def encode : Instr → Word
  | .cls => 0x00E0
  | .ret => 0x00EE
  | .sys nnn => wordNNN 0x0 nnn
  | .jp nnn => wordNNN 0x1 nnn
  | .call nnn => wordNNN 0x2 nnn
  | .seByte x kk => wordXKK 0x3 x kk
  | .sneByte x kk => wordXKK 0x4 x kk
  | .seReg x y => wordXYN 0x5 x y 0x0
  | .ldByte x kk => wordXKK 0x6 x kk
  | .addByte x kk => wordXKK 0x7 x kk
  | .ldReg x y => wordXYN 0x8 x y 0x0
  | .orReg x y => wordXYN 0x8 x y 0x1
  | .andReg x y => wordXYN 0x8 x y 0x2
  | .xorReg x y => wordXYN 0x8 x y 0x3
  | .addReg x y => wordXYN 0x8 x y 0x4
  | .subReg x y => wordXYN 0x8 x y 0x5
  | .shr x y => wordXYN 0x8 x y 0x6
  | .subnReg x y => wordXYN 0x8 x y 0x7
  | .shl x y => wordXYN 0x8 x y 0xE
  | .sneReg x y => wordXYN 0x9 x y 0x0
  | .ldI nnn => wordNNN 0xA nnn
  | .jpV0 nnn => wordNNN 0xB nnn
  | .rnd x kk => wordXKK 0xC x kk
  | .drw x y n => wordXYN 0xD x y n
  | .skp x => wordXKK 0xE x 0x9E
  | .sknp x => wordXKK 0xE x 0xA1
  | .ldVxDT x => wordXKK 0xF x 0x07
  | .ldVxK x => wordXKK 0xF x 0x0A
  | .ldDTVx x => wordXKK 0xF x 0x15
  | .ldSTVx x => wordXKK 0xF x 0x18
  | .addI x => wordXKK 0xF x 0x1E
  | .ldF x => wordXKK 0xF x 0x29
  | .ldB x => wordXKK 0xF x 0x33
  | .stRegs x => wordXKK 0xF x 0x55
  | .ldRegs x => wordXKK 0xF x 0x65

/-! ### The table's columns (R75, opcode_table.json) -/

/-- Column `mask`: the bits of a word that select the row. -/
def Instr.maskBits : Instr → Word
  | .cls => 0xFFFF
  | .ret => 0xFFFF
  | .sys _ => 0xF000
  | .jp _ => 0xF000
  | .call _ => 0xF000
  | .seByte _ _ => 0xF000
  | .sneByte _ _ => 0xF000
  | .seReg _ _ => 0xF000
  | .ldByte _ _ => 0xF000
  | .addByte _ _ => 0xF000
  | .ldReg _ _ => 0xF00F
  | .orReg _ _ => 0xF00F
  | .andReg _ _ => 0xF00F
  | .xorReg _ _ => 0xF00F
  | .addReg _ _ => 0xF00F
  | .subReg _ _ => 0xF00F
  | .shr _ _ => 0xF00F
  | .subnReg _ _ => 0xF00F
  | .shl _ _ => 0xF00F
  | .sneReg _ _ => 0xF000
  | .ldI _ => 0xF000
  | .jpV0 _ => 0xF000
  | .rnd _ _ => 0xF000
  | .drw _ _ _ => 0xF000
  | .skp _ => 0xF0FF
  | .sknp _ => 0xF0FF
  | .ldVxDT _ => 0xF0FF
  | .ldVxK _ => 0xF0FF
  | .ldDTVx _ => 0xF0FF
  | .ldSTVx _ => 0xF0FF
  | .addI _ => 0xF0FF
  | .ldF _ => 0xF0FF
  | .ldB _ => 0xF0FF
  | .stRegs _ => 0xF0FF
  | .ldRegs _ => 0xF0FF

/-- Column `match`: what those bits are. -/
def Instr.matchBits : Instr → Word
  | .cls => 0x00E0
  | .ret => 0x00EE
  | .sys _ => 0x0000
  | .jp _ => 0x1000
  | .call _ => 0x2000
  | .seByte _ _ => 0x3000
  | .sneByte _ _ => 0x4000
  | .seReg _ _ => 0x5000
  | .ldByte _ _ => 0x6000
  | .addByte _ _ => 0x7000
  | .ldReg _ _ => 0x8000
  | .orReg _ _ => 0x8001
  | .andReg _ _ => 0x8002
  | .xorReg _ _ => 0x8003
  | .addReg _ _ => 0x8004
  | .subReg _ _ => 0x8005
  | .shr _ _ => 0x8006
  | .subnReg _ _ => 0x8007
  | .shl _ _ => 0x800E
  | .sneReg _ _ => 0x9000
  | .ldI _ => 0xA000
  | .jpV0 _ => 0xB000
  | .rnd _ _ => 0xC000
  | .drw _ _ _ => 0xD000
  | .skp _ => 0xE09E
  | .sknp _ => 0xE0A1
  | .ldVxDT _ => 0xF007
  | .ldVxK _ => 0xF00A
  | .ldDTVx _ => 0xF015
  | .ldSTVx _ => 0xF018
  | .addI _ => 0xF01E
  | .ldF _ => 0xF029
  | .ldB _ => 0xF033
  | .stRegs _ => 0xF055
  | .ldRegs _ => 0xF065

end Sys2Proof
end

