-- ==== Sys2Proof/Config.lean ====
section
/-! DEFINITION. What is fixed for the life of a machine (spec 00_scope.md R5, 10_state.md R36), and the one free value
of the model: the byte the random source yields. The defaults of the two parameters that State carries as data
(STACK_CAPACITY, FONT_BASE) stand in Sys2Proof/Machine/Params.lean. -/

namespace Sys2Proof.Config

/-- MEM_SIZE: "4096 addressable bytes", addresses 0x000 to 0xFFF (R5). -/
abbrev memSize : Nat := 4096

/-- DISPLAY_WIDTH (R5, R30, R160; log 4). -/
abbrev displayWidth : Nat := 64

/-- DISPLAY_HEIGHT (R5, R30, R160; log 4). -/
abbrev displayHeight : Nat := 32

/-- ENTRY: the reset value of `pc` (R5, R57). -/
abbrev entry : Word := 0x200

/-- FREE VALUE (log 3). The byte that draw number `draws` (counted from 0) yields after the generator was seeded with
`seed`. The spec gives no algorithm (R35, R150, D23, U7); all it fixes is that the byte is a function of the seed and
of the number of RND instructions executed before, and of nothing else. No body: nothing in Lean can evaluate it. -/
opaque randomByte : (seed draws : Nat) → Byte

end Sys2Proof.Config
end

