-- ==== Sys2Proof/Machine/Framebuffer.lean ====
section
/-! DEFINITION. The framebuffer as plain data and the two ways it changes: clearing, and plotting a sprite by exclusive
OR with a collision flag (spec 10_state.md R30, 44_display.md R160 to R163). -/

namespace Sys2Proof.Machine

/-- `fb[row][col]`: 32 rows of 64 one-bit pixels (R30, R160). -/
abbrev Framebuffer := Vector (Vector Bool Config.displayWidth) Config.displayHeight

/-- Every pixel 0 (R161, R200). -/
def Framebuffer.blank : Framebuffer :=
  Vector.replicate Config.displayHeight (Vector.replicate Config.displayWidth false)

/-- `fb[row][col]`. -/
def Framebuffer.pixel (fb : Framebuffer) (row : Fin Config.displayHeight) (col : Fin Config.displayWidth) : Bool :=
  fb[row][col]

/-- `fb[row][col] <- fb[row][col] ^ 1`. -/
def Framebuffer.flip (fb : Framebuffer) (row : Fin Config.displayHeight) (col : Fin Config.displayWidth) :
    Framebuffer :=
  fb.set row (fb[row].set col (!(Framebuffer.pixel fb row col)))

/-- A row coordinate modulo DISPLAY_HEIGHT (R160). -/
def wrapRow (r : Nat) : Fin Config.displayHeight := Fin.ofNat Config.displayHeight r

/-- A column coordinate modulo DISPLAY_WIDTH (R160). -/
def wrapCol (c : Nat) : Fin Config.displayWidth := Fin.ofNat Config.displayWidth c

/-- Pixel `c` of a sprite byte, 0 the leftmost: bit `7 - c` (R163; log 16). -/
def spriteBit (b : Byte) (c : Nat) : Bool := b.getLsbD (7 - c)

/-- A draw in progress: the framebuffer so far and whether a set pixel has been cleared (R162). -/
structure Drawing where
  fb : Framebuffer
  collision : Bool
  deriving DecidableEq, Repr

/-- One sprite bit at one pixel: a 1 bit flips it and records a collision if it was 1, a 0 bit does nothing (R162). -/
def Drawing.plot (d : Drawing) (row : Fin Config.displayHeight) (col : Fin Config.displayWidth) (bit : Bool) : Drawing :=
  if bit then
    { fb := Framebuffer.flip d.fb row col, collision := d.collision || Framebuffer.pixel d.fb row col }
  else d

/-- One sprite byte on one display row: columns 0 to 7 ascending from `x0`, each wrapped (R162). -/
def Drawing.plotRow (d : Drawing) (row : Fin Config.displayHeight) (x0 : Nat) (b : Byte) : Drawing :=
  (List.range 8).foldl (fun d c => d.plot row (wrapCol (x0 + c)) (spriteBit b c)) d

/-- A whole sprite, its first byte on display row `y0`, each row wrapped (R162). -/
def Drawing.plotSprite : Drawing → Nat → Nat → List Byte → Drawing
  | d, _, _, [] => d
  | d, x0, y0, b :: bs => (d.plotRow (wrapRow y0) x0 b).plotSprite x0 (y0 + 1) bs

end Sys2Proof.Machine
end

