-- ==== Sys2Proof/Machine/Memory.lean ====
section
/-! DEFINITION. The memory as plain data: the list of its nonzero bytes by strictly rising address, all below
MEM_SIZE (spec 10_state.md R29, 20_memory.md R50). An address not listed reads 0, the reset contents of every byte
(R29, R37). Range checks are in Sys2Proof/Machine/Ops.lean; here an address outside memory reads 0 and is not written. -/

namespace Sys2Proof.Machine

/-- The nonzero bytes of memory, by strictly rising address. -/
abbrev Memory := List Host.Cell

/-- What an unlisted address reads as: the reset contents (R29 "cleared to zero on reset"). -/
def Memory.fill : Byte := 0

/-- The byte at an address. -/
def Memory.read : Memory → Nat → Byte
  | [], _ => Memory.fill
  | (b, v) :: m, a => if a = b then v else Memory.read m a

/-- The memory without what it lists at `a`. -/
def Memory.erase : Memory → Nat → Memory
  | [], _ => []
  | (b, u) :: m, a => if b = a then Memory.erase m a else (b, u) :: Memory.erase m a

/-- An entry put before the first one of a higher address. -/
def Memory.insert : Memory → Nat → Byte → Memory
  | [], a, v => [(a, v)]
  | (b, u) :: m, a, v => if a < b then (a, v) :: (b, u) :: m else (b, u) :: Memory.insert m a v

/-- Write one byte; a byte that would equal `fill` is not listed, and an address outside memory holds none. -/
def Memory.write (m : Memory) (a : Nat) (v : Byte) : Memory :=
  if a < Config.memSize then
    (if v = Memory.fill then Memory.erase m a else Memory.insert (Memory.erase m a) a v)
  else m

/-- Write bytes at ascending addresses from `a` (R58). -/
def Memory.writeBlock : Memory → Nat → List Byte → Memory
  | m, _, [] => m
  | m, a, b :: bs => Memory.writeBlock (Memory.write m a b) (a + 1) bs

/-- Read `n` bytes at ascending addresses from `a` (R58). -/
def Memory.readBlock (m : Memory) : Nat → Nat → List Byte
  | _, 0 => []
  | a, n + 1 => Memory.read m a :: Memory.readBlock m (a + 1) n

/-- Every listed address is at least `lo` and below MEM_SIZE, the addresses strictly rise, no listed byte is `fill`. -/
def Memory.wfFrom : Nat → Memory → Bool
  | _, [] => true
  | lo, (a, v) :: m => decide (lo ≤ a) && decide (a < Config.memSize) && v != Memory.fill && Memory.wfFrom (a + 1) m

/-- The canonical form. -/
def Memory.wf (m : Memory) : Bool := Memory.wfFrom 0 m

end Sys2Proof.Machine
end

