-- ==== Sys2Proof/Machine/Params.lean ====
section
/-! DEFINITION. The default values of the parameters a machine carries as data, and the glyph size
(spec 00_scope.md R5). -/

namespace Sys2Proof.Machine.Params

/-- STACK_CAPACITY's default (R5, D1, GK2; log 1). -/
def defaultStackCapacity : Nat := 16

/-- FONT_BASE's default (R5, D5; log 2). -/
def defaultFontBase : Word := 0x000

/-- FONT_STRIDE: bytes per glyph (R5, D5, GK3; log 2). -/
def fontStride : Nat := 5

/-- RNG_SEED's default; OPEN in the spec (R5, D20; log 3). -/
def defaultSeed : Nat := 0

end Sys2Proof.Machine.Params
end

