-- ==== Sys2Proof/Machine/State.lean ====
section
/-! DEFINITION. The whole state of the machine as plain data (spec 10_state.md; INVENTORY.md "## State" lists every
field), the reasons a move can stop, and the power-on state (70_reset_and_hazards.md R201). -/

namespace Sys2Proof.Machine

/-- The run state (R31). -/
inductive RunState where
  /-- a step executes one instruction -/
  | running
  /-- `LD Vx,K` waits for a key-down event; a step does nothing -/
  | awaitingKey
  /-- a fatal condition was raised; a step does nothing -/
  | halted
  deriving DecidableEq, Repr

/-- The values of `fault_cause` (R33, R170). -/
inductive FaultCause where
  /-- 0: no fault -/
  | none
  /-- 1: DecodeError -/
  | decodeError
  /-- 2: StackOverflow -/
  | stackOverflow
  /-- 3: StackUnderflow -/
  | stackUnderflow
  /-- 4: AddressOutOfRange -/
  | addressOutOfRange
  deriving DecidableEq, Repr

/-- The state of the random source (R35): the seed applied last and how many bytes were drawn since. The byte of a draw
is a function of these two and of nothing else (R150; log 3). -/
structure Rng where
  seed : Nat
  draws : Nat
  deriving DecidableEq, Repr

/-- The reasons a move can stop. The four fatal conditions of the spec are not here: they are transitions to HALTED,
taken by `raise` (60_exceptions.md R176). -/
inductive Fault where
  /-- Raised only by the host's memory port operations (`hostMove`), never by a step or an instruction: the host names
  the address `addr` outside memory, an access that has no move and changes nothing (R186, R187, D22; U19 "stuck").
  Safe. -/
  | hostNoMove (addr : Nat)
  deriving DecidableEq, Repr

/-- The reasons the model has no answer. -/
inductive Refusal where
  /-- Raised only by an arm of `exec` whose instruction has no meaning yet; no arm of this model is so. Safe. -/
  | notModelled (mnemonic : String)
  deriving DecidableEq, Repr

/-- Every piece of state the spec gives the machine (R2, R39). -/
structure State where
  /-- the general registers V0 to VF (R20) -/
  V : Vector Byte 16
  /-- the address register (R24) -/
  I : Word
  /-- the program counter (R23) -/
  pc : Word
  /-- the stack pointer, 0 (full) to STACK_CAPACITY (empty) (R25) -/
  sp : Nat
  /-- the call stack; its length is the parameter STACK_CAPACITY (R26; log 1) -/
  stack : List Word
  /-- the delay timer (R28) -/
  DT : Byte
  /-- the sound timer (R28) -/
  ST : Byte
  /-- the memory (R29) -/
  mem : Memory
  /-- the framebuffer (R30) -/
  fb : Framebuffer
  /-- the input key latch (R34) -/
  key : Vector Bool 16
  /-- the run state (R31) -/
  run : RunState
  /-- the register the pending `LD Vx,K` will write (R32) -/
  kx : RegIdx
  /-- the recorded fatal condition (R33) -/
  faultCause : FaultCause
  /-- the word or address recorded with it (R33) -/
  faultInfo : Word
  /-- the random source (R35) -/
  rng : Rng
  /-- the model's own field: the OPEN parameter FONT_BASE, fixed for the life of the machine (R5, R143; log 2) -/
  fontBase : Word
  deriving DecidableEq, Repr

/-- The fresh machine (R37, R201): what Reset produces, with all keys released and the random source at its seed. -/
def State.reset : State where
  V := Vector.replicate 16 0
  I := 0
  pc := Config.entry
  sp := Params.defaultStackCapacity
  stack := List.replicate Params.defaultStackCapacity 0
  DT := 0
  ST := 0
  mem := []
  fb := Framebuffer.blank
  key := Vector.replicate 16 false
  run := .running
  kx := 0
  faultCause := .none
  faultInfo := 0
  rng := { seed := Params.defaultSeed, draws := 0 }
  fontBase := Params.defaultFontBase

end Sys2Proof.Machine
end

