-- ==== Sys2Proof/Machine/Ops.lean ====
section
/-! DEFINITION. The named operations on the state that the instructions and the host's moves share: registers, program
counter, call stack, memory with its range check, framebuffer, timers, random source, the key wait, taking a fault,
and the reset that is the only return from one. -/

namespace Sys2Proof.Machine

/-! ### Registers (10_state.md R20, R22, R24) -/

/-- VF, the flag register (R22). -/
def vf : RegIdx := 15

/-- `V[x]`. -/
def State.reg (s : State) (x : RegIdx) : Byte := s.V[x]

/-- `V[x] <- b`. -/
def State.setReg (s : State) (x : RegIdx) (b : Byte) : State := { s with V := s.V.set x b }

/-- `I <- a`. -/
def State.setI (s : State) (a : Word) : State := { s with I := a }

/-! ### Program counter (R23, 40_control_flow.md R109) -/

/-- `pc <- t`. -/
def State.jump (s : State) (t : Word) : State := { s with pc := t }

/-- `pc <- pc + 2`, one instruction word, on the 16-bit register. -/
def State.advance (s : State) : State := { s with pc := s.pc + 2 }

/-- The skip discipline: `pc <- pc + 2`, and `pc <- pc + 2` once more if the condition holds (R109, R206). -/
def State.skipIf (s : State) (c : Bool) : State := if c then s.advance.advance else s.advance

/-! ### Call stack (R25, R26) -/

/-- STACK_CAPACITY: the number of slots (R5). -/
def State.stackCapacity (s : State) : Nat := s.stack.length

/-- Pre-decrement `sp` and store a return address in the slot it then names (R103). -/
def State.push (s : State) (v : Word) : State := { s with sp := s.sp - 1, stack := s.stack.set (s.sp - 1) v }

/-- `stack[j]`. -/
def State.slot (s : State) (j : Nat) : Word := s.stack.getD j 0

/-- Clear the slot `sp` names and post-increment `sp` (R101). -/
def State.pop (s : State) : State := { s with sp := s.sp + 1, stack := s.stack.set s.sp 0 }

/-! ### Memory (20_memory.md R50 to R55) -/

/-- `mem[a]`. -/
def State.readByte (s : State) (a : Nat) : Byte := s.mem.read a

/-- `mem[a .. a+n-1]`, ascending. -/
def State.readBytes (s : State) (a n : Nat) : List Byte := s.mem.readBlock a n

/-- Bytes to `mem[a], mem[a+1], ...`, ascending. -/
def State.writeBytes (s : State) (a : Nat) (bs : List Byte) : State := { s with mem := s.mem.writeBlock a bs }

/-- The range check of a `count`-byte access at `base`, on unbounded integers: the first out-of-range address, if any.
An access of no byte has none (R9, R54, R55). -/
def firstOutOfRange (base count : Nat) : Option Nat :=
  if count = 0 then none
  else if base > 0xFFF then some base
  else if base + count - 1 > 0xFFF then some 0x1000
  else none

/-! ### Framebuffer, timers, keys, random source (R28, R30, R34, R35) -/

/-- `fb[row][col]`. -/
def State.pixel (s : State) (row : Fin Config.displayHeight) (col : Fin Config.displayWidth) : Bool :=
  Framebuffer.pixel s.fb row col

/-- Replace the framebuffer. -/
def State.setFb (s : State) (fb : Framebuffer) : State := { s with fb := fb }

/-- `DT <- b`. -/
def State.setDT (s : State) (b : Byte) : State := { s with DT := b }

/-- `ST <- b`. -/
def State.setST (s : State) (b : Byte) : State := { s with ST := b }

/-- `key[k]`. -/
def State.keyDown? (s : State) (k : KeyIdx) : Bool := s.key[k]

/-- `key[k] <- c`. -/
def State.setKey (s : State) (k : KeyIdx) (c : Bool) : State := { s with key := s.key.set k c }

/-- The byte the random source yields next: a free value (R150; log 3). -/
def State.randomByte (s : State) : Byte := Config.randomByte s.rng.seed s.rng.draws

/-- The random source after one draw. -/
def State.advanceRng (s : State) : State := { s with rng := { s.rng with draws := s.rng.draws + 1 } }

/-! ### The key wait (43_timers_random_input.md R154) -/

/-- Start to wait: `kx <- x`, `run <- AWAITING_KEY`; `pc` stays. -/
def State.awaitKey (s : State) (x : RegIdx) : State := { s with run := .awaitingKey, kx := x }

/-- End the wait: `kx <- 0`, `run <- RUNNING`. -/
def State.endWait (s : State) : State := { s with run := .running, kx := 0 }

/-! ### Taking a fault, and the only return from one (60_exceptions.md R170 to R178) -/

/-- The four fatal conditions with what each records (R170). -/
inductive Trap where
  /-- a word with no instruction (R171) -/
  | decodeError (w : Word)
  /-- CALL on a full stack (R172) -/
  | stackOverflow
  /-- RET on an empty stack (R173) -/
  | stackUnderflow
  /-- the first out-of-range address of a fetch, a jump or a data access (R174) -/
  | addressOutOfRange (a : Nat)
  deriving DecidableEq, Repr

/-- The cause a condition records (R170). -/
def Trap.cause : Trap → FaultCause
  | .decodeError _ => .decodeError
  | .stackOverflow => .stackOverflow
  | .stackUnderflow => .stackUnderflow
  | .addressOutOfRange _ => .addressOutOfRange

/-- The `fault_info` a condition records (R33, R170). -/
def Trap.info : Trap → Word
  | .decodeError w => w
  | .stackOverflow => 0
  | .stackUnderflow => 0
  | .addressOutOfRange a => BitVec.ofNat 16 a

/-- The code of a cause (R33, R170). -/
def FaultCause.code : FaultCause → Nat
  | .none => 0
  | .decodeError => 1
  | .stackOverflow => 2
  | .stackUnderflow => 3
  | .addressOutOfRange => 4

/-- Fault entry (R176): cause and info recorded, `run <- HALTED`, nothing else; `pc` keeps the faulting instruction's
address. -/
def State.raise (s : State) (t : Trap) : State :=
  { s with faultCause := t.cause, faultInfo := t.info, run := .halted }

/-- Do `k` if a `count`-byte access at `base` is in range; else take the fault with the first out-of-range address and
do nothing of `k` (R55, R175). -/
def State.ifInRange (s : State) (base count : Nat) (k : State) : State :=
  match firstOutOfRange base count with
  | some a => s.raise (.addressOutOfRange a)
  | none => k

/-- Reset (R200), the only way out of HALTED (R178, R181): everything to its reset value but the key latch and the
random source; the machine's parameters stay. -/
def State.resetOp (s : State) : State where
  V := Vector.replicate 16 0
  I := 0
  pc := Config.entry
  sp := s.stack.length
  stack := List.replicate s.stack.length 0
  DT := 0
  ST := 0
  mem := []
  fb := Framebuffer.blank
  key := s.key
  run := .running
  kx := 0
  faultCause := .none
  faultInfo := 0
  rng := s.rng
  fontBase := s.fontBase

end Sys2Proof.Machine
end

