-- ==== Sys2Proof/Machine/Flags.lean ====
section
/-! DEFINITION. The flags of the hardware: what the arithmetic, shift and draw instructions write to VF, and the order of
the flag and result writes (spec 10_state.md R22, 41_alu.md R126 to R132). -/

namespace Sys2Proof.Machine

/-- A flag as VF holds it: 0 or 1 (R22). -/
def flagByte (c : Bool) : Byte := if c then 1 else 0

/-- Carry of `a + b`: the sum is above 255 (R126). -/
def carryOut (a b : Byte) : Bool := decide (a.toNat + b.toNat > 255)

/-- The flag of `a - b`: 1 exactly when `a > b`, strictly (R127, R129, R132). -/
def greater (a b : Byte) : Bool := decide (a.toNat > b.toNat)

/-- The bit a right shift by one shifts out (R128). -/
def shiftedOutRight (a : Byte) : Bool := a.getLsbD 0

/-- The bit a left shift by one shifts out (R130). -/
def shiftedOutLeft (a : Byte) : Bool := a.getLsbD 7

/-- `V[0xF] <- flag`, then `V[x] <- result`: the result is written last, so with `x = 0xF` the flag is lost
(R131, D9; log 7). -/
def State.setFlagThenReg (s : State) (x : RegIdx) (flag : Bool) (result : Byte) : State :=
  (s.setReg vf (flagByte flag)).setReg x result

end Sys2Proof.Machine
end

