-- ==== Sys2Proof/Machine/Alu.lean ====
section
/-! DEFINITION. The load, arithmetic and logic instructions (spec 41_alu.md R120 to R132). Operands are read from the
state before any write (R131). -/

namespace Sys2Proof.Machine

/-- LD Vx, byte (R120). -/
def execLdByte (x : RegIdx) (kk : Byte) (s : State) : Host.Outcome State Fault Refusal :=
  .next (s.setReg x kk).advance

/-- ADD Vx, byte: no flag (R121). -/
def execAddByte (x : RegIdx) (kk : Byte) (s : State) : Host.Outcome State Fault Refusal :=
  .next (s.setReg x (s.reg x + kk)).advance

/-- LD Vx, Vy (R122). -/
def execLdReg (x y : RegIdx) (s : State) : Host.Outcome State Fault Refusal :=
  .next (s.setReg x (s.reg y)).advance

/-- OR Vx, Vy: VF unchanged (R123, D10; log 8). -/
def execOrReg (x y : RegIdx) (s : State) : Host.Outcome State Fault Refusal :=
  .next (s.setReg x (s.reg x ||| s.reg y)).advance

/-- AND Vx, Vy: VF unchanged (R124, D10; log 8). -/
def execAndReg (x y : RegIdx) (s : State) : Host.Outcome State Fault Refusal :=
  .next (s.setReg x (s.reg x &&& s.reg y)).advance

/-- XOR Vx, Vy: VF unchanged (R125, D10; log 8). -/
def execXorReg (x y : RegIdx) (s : State) : Host.Outcome State Fault Refusal :=
  .next (s.setReg x (s.reg x ^^^ s.reg y)).advance

/-- ADD Vx, Vy: VF is the carry (R126). -/
def execAddReg (x y : RegIdx) (s : State) : Host.Outcome State Fault Refusal :=
  .next (s.setFlagThenReg x (carryOut (s.reg x) (s.reg y)) (s.reg x + s.reg y)).advance

/-- SUB Vx, Vy: VF is `Vx > Vy` (R127). -/
def execSubReg (x y : RegIdx) (s : State) : Host.Outcome State Fault Refusal :=
  .next (s.setFlagThenReg x (greater (s.reg x) (s.reg y)) (s.reg x - s.reg y)).advance

/-- SHR Vx: VF is the bit shifted out; `y` is ignored (R128, D11). -/
def execShr (x _y : RegIdx) (s : State) : Host.Outcome State Fault Refusal :=
  .next (s.setFlagThenReg x (shiftedOutRight (s.reg x)) (s.reg x >>> 1)).advance

/-- SUBN Vx, Vy: VF is `Vy > Vx` (R129). -/
def execSubnReg (x y : RegIdx) (s : State) : Host.Outcome State Fault Refusal :=
  .next (s.setFlagThenReg x (greater (s.reg y) (s.reg x)) (s.reg y - s.reg x)).advance

/-- SHL Vx: VF is the bit shifted out; `y` is ignored (R130, D11). -/
def execShl (x _y : RegIdx) (s : State) : Host.Outcome State Fault Refusal :=
  .next (s.setFlagThenReg x (shiftedOutLeft (s.reg x)) (s.reg x <<< 1)).advance

end Sys2Proof.Machine
end

