-- ==== Sys2Proof/Machine/Operands.lean ====
section
/-! DEFINITION. The operand forms: key and glyph selection by a low nibble, immediates widened, the indirect block
through `I`, the register block V0 to Vx, decimal digits, the font address and the computed jump target
(spec 30_encoding.md R82, 42_memory_index.md R142 to R146, 43_timers_random_input.md R151). -/

namespace Sys2Proof.Machine

/-- `v[3:0]` as a number 0 to 15: the key a register names (R151), the digit of a glyph (R143). -/
def lowNibble (v : Byte) : Fin 16 := (v.extractLsb' 0 4).toFin

/-- `zext_16(nnn)` (R82). -/
def widenAddr (nnn : Addr12) : Word := nnn.setWidth 16

/-- `zext_16(v)` (R141). -/
def widenByte (v : Byte) : Word := v.setWidth 16

/-- `zext_8(k)`: a key's number as a register value (R154, R182). -/
def keyNumber (k : KeyIdx) : Byte := BitVec.ofNat 8 k.val

/-- The base of a data access: `I` as an unbounded integer (R142). -/
def State.base (s : State) : Nat := s.I.toNat

/-- V0 to Vx, ascending (R145). -/
def State.regsUpTo (s : State) (x : RegIdx) : List Byte := s.V.toList.take (x.val + 1)

/-- Bytes to registers `k`, `k+1`, ..., ascending (R146). -/
def loadFrom : Vector Byte 16 → Nat → List Byte → Vector Byte 16
  | v, _, [] => v
  | v, k, b :: bs => loadFrom (v.setIfInBounds k b) (k + 1) bs

/-- Bytes to V0, V1, ... (R146). -/
def State.setRegsFrom0 (s : State) (bs : List Byte) : State := { s with V := loadFrom s.V 0 bs }

/-- The hundreds, tens and units digits of a byte (R144). -/
def decimalDigits (v : Byte) : List Byte :=
  [BitVec.ofNat 8 (v.toNat / 100), BitVec.ofNat 8 (v.toNat / 10 % 10), BitVec.ofNat 8 (v.toNat % 10)]

/-- `FONT_BASE + FONT_STRIDE * d`, 16 bits (R143; log 2). -/
def State.glyphAddress (s : State) (d : Fin 16) : Word := s.fontBase + BitVec.ofNat 16 (Params.fontStride * d.val)

/-- `zext_16(V[0]) + zext_16(nnn)`, not masked (R108). -/
def State.v0Target (s : State) (nnn : Addr12) : Nat := (s.reg 0).toNat + nnn.toNat

end Sys2Proof.Machine
end

