-- ==== Sys2Proof/Machine/ControlFlow.lean ====
section
/-! DEFINITION. The control-flow instructions (spec 40_control_flow.md R100 to R109). -/

namespace Sys2Proof.Machine

/-- SYS addr: a no-op (R100, D12; log 9). -/
def execSys (_nnn : Addr12) (s : State) : Host.Outcome State Fault Refusal := .next s.advance

/-- RET: fault on an empty stack; else pop into `pc` (R101). -/
def execRet (s : State) : Host.Outcome State Fault Refusal :=
  .next (if s.sp = s.stackCapacity then s.raise .stackUnderflow else s.pop.jump (s.slot s.sp))

/-- JP addr (R102). -/
def execJp (nnn : Addr12) (s : State) : Host.Outcome State Fault Refusal := .next (s.jump (widenAddr nnn))

/-- CALL addr: fault on a full stack; else push `pc0 + 2` and jump (R103). -/
def execCall (nnn : Addr12) (s : State) : Host.Outcome State Fault Refusal :=
  .next (if s.sp = 0 then s.raise .stackOverflow else (s.push (s.pc + 2)).jump (widenAddr nnn))

/-- SE Vx, byte (R104). -/
def execSeByte (x : RegIdx) (kk : Byte) (s : State) : Host.Outcome State Fault Refusal :=
  .next (s.skipIf (s.reg x == kk))

/-- SNE Vx, byte (R105). -/
def execSneByte (x : RegIdx) (kk : Byte) (s : State) : Host.Outcome State Fault Refusal :=
  .next (s.skipIf (s.reg x != kk))

/-- SE Vx, Vy (R106). -/
def execSeReg (x y : RegIdx) (s : State) : Host.Outcome State Fault Refusal :=
  .next (s.skipIf (s.reg x == s.reg y))

/-- SNE Vx, Vy (R107). -/
def execSneReg (x y : RegIdx) (s : State) : Host.Outcome State Fault Refusal :=
  .next (s.skipIf (s.reg x != s.reg y))

/-- JP V0, addr: fault if the target is outside memory; else jump (R108). -/
def execJpV0 (nnn : Addr12) (s : State) : Host.Outcome State Fault Refusal :=
  .next (if s.v0Target nnn > 0xFFF then s.raise (.addressOutOfRange (s.v0Target nnn))
    else s.jump (BitVec.ofNat 16 (s.v0Target nnn)))

end Sys2Proof.Machine
end

