-- ==== Sys2Proof/Machine/Display.lean ====
section
/-! DEFINITION. The display instructions (spec 44_display.md R160 to R163). -/

namespace Sys2Proof.Machine

/-- CLS (R161). -/
def execCls (s : State) : Host.Outcome State Fault Refusal := .next (s.setFb Framebuffer.blank).advance

/-- The draw of DRW: the `n` bytes at `I`, from column `V[x]` and row `V[y]`, all read before any write (R162). -/
def State.drawing (s : State) (x y : RegIdx) (n : Fin 16) : Drawing :=
  Drawing.plotSprite { fb := s.fb, collision := false } (s.reg x).toNat (s.reg y).toNat (s.readBytes s.base n.val)

/-- DRW Vx, Vy, n: the range check of the whole sprite, the draw, then VF, written once and last (R162, D26; log 17). -/
def execDrw (x y : RegIdx) (n : Fin 16) (s : State) : Host.Outcome State Fault Refusal :=
  .next (s.ifInRange s.base n.val
    ((s.setFb (s.drawing x y n).fb).setReg vf (flagByte (s.drawing x y n).collision)).advance)

end Sys2Proof.Machine
end

