-- ==== Sys2Proof/Machine/MemoryIndex.lean ====
section
/-! DEFINITION. The memory and index instructions (spec 42_memory_index.md R140 to R146). `I` is not changed by a
transfer. -/

namespace Sys2Proof.Machine

/-- LD I, addr (R140). -/
def execLdI (nnn : Addr12) (s : State) : Host.Outcome State Fault Refusal := .next (s.setI (widenAddr nnn)).advance

/-- ADD I, Vx: 16-bit add, no flag, no range check (R141, D30). -/
def execAddI (x : RegIdx) (s : State) : Host.Outcome State Fault Refusal :=
  .next (s.setI (s.I + widenByte (s.reg x))).advance

/-- LD F, Vx: the glyph of the low nibble of `Vx` (R143; log 2). -/
def execLdF (x : RegIdx) (s : State) : Host.Outcome State Fault Refusal :=
  .next (s.setI (s.glyphAddress (lowNibble (s.reg x)))).advance

/-- LD B, Vx: the three decimal digits, hundreds at the lowest address (R144). -/
def execLdB (x : RegIdx) (s : State) : Host.Outcome State Fault Refusal :=
  .next (s.ifInRange s.base 3 (s.writeBytes s.base (decimalDigits (s.reg x))).advance)

/-- LD [I], Vx: store V0 to Vx (R145). -/
def execStRegs (x : RegIdx) (s : State) : Host.Outcome State Fault Refusal :=
  .next (s.ifInRange s.base (x.val + 1) (s.writeBytes s.base (s.regsUpTo x)).advance)

/-- LD Vx, [I]: load V0 to Vx (R146). -/
def execLdRegs (x : RegIdx) (s : State) : Host.Outcome State Fault Refusal :=
  .next (s.ifInRange s.base (x.val + 1) (s.setRegsFrom0 (s.readBytes s.base (x.val + 1))).advance)

end Sys2Proof.Machine
end

