-- ==== Sys2Proof/Machine/TimersInput.lean ====
section
/-! DEFINITION. The timer, random and input instructions (spec 43_timers_random_input.md R150 to R157). -/

namespace Sys2Proof.Machine

/-- RND Vx, byte: a free byte, masked; the source advances by one draw (R150, D23; log 3). -/
def execRnd (x : RegIdx) (kk : Byte) (s : State) : Host.Outcome State Fault Refusal :=
  .next (s.advanceRng.setReg x (s.randomByte &&& kk)).advance

/-- SKP Vx: skip if the key is pressed (R151). -/
def execSkp (x : RegIdx) (s : State) : Host.Outcome State Fault Refusal :=
  .next (s.skipIf (s.keyDown? (lowNibble (s.reg x))))

/-- SKNP Vx: skip if the key is not pressed (R152). -/
def execSknp (x : RegIdx) (s : State) : Host.Outcome State Fault Refusal :=
  .next (s.skipIf (!(s.keyDown? (lowNibble (s.reg x)))))

/-- LD Vx, DT (R153). -/
def execLdVxDT (x : RegIdx) (s : State) : Host.Outcome State Fault Refusal := .next (s.setReg x s.DT).advance

/-- LD Vx, K, first transition: start to wait; `pc` stays (R154). The second is the host's `hostKeyDown`. -/
def execLdVxK (x : RegIdx) (s : State) : Host.Outcome State Fault Refusal := .next (s.awaitKey x)

/-- LD DT, Vx (R155). -/
def execLdDTVx (x : RegIdx) (s : State) : Host.Outcome State Fault Refusal := .next (s.setDT (s.reg x)).advance

/-- LD ST, Vx (R156). -/
def execLdSTVx (x : RegIdx) (s : State) : Host.Outcome State Fault Refusal := .next (s.setST (s.reg x)).advance

end Sys2Proof.Machine
end

