-- ==== Sys2Proof/Machine/Fetch.lean ====
section
/-! DEFINITION. Fetching an instruction's bytes and running what they decode to (spec 20_memory.md R54,
60_exceptions.md R180), and placing a word where the next step fetches it. -/

namespace Sys2Proof.Machine

/-- `w <- MemRead(pc, 2)`, big endian (R52, R54). -/
def State.fetchWord (s : State) : Word :=
  wordOfBytes (s.readByte s.pc.toNat) (s.readByte (s.pc.toNat + 1))

/-- Run what a word decodes to, or take DecodeError (R171, R180). -/
def runDecoded (d : Decoded) (s : State) : Host.Outcome State Fault Refusal :=
  match d with
  | .instr i => exec i s
  | .illegal w => .next (s.raise (.decodeError w))

/-- A step in RUNNING: the fetch range check, then decode, then the instruction (R54, R177, R180). -/
def runOne (s : State) : Host.Outcome State Fault Refusal :=
  match firstOutOfRange s.pc.toNat 2 with
  | some a => .next (s.raise (.addressOutOfRange a))
  | none => runDecoded (decodeWord s.fetchWord) s

/-- `s` able to fetch: itself when it is RUNNING with a fetchable `pc`; else run state, key wait and fault registers as
after reset, and `pc` at the entry point when it is not fetchable. -/
def State.readyToFetch (s : State) : State :=
  let t := if s.run = .running then s else { s with run := .running, kx := 0, faultCause := .none, faultInfo := 0 }
  if t.pc.toNat ≤ 0xFFE then t else t.jump Config.entry

/-- A table word stored where the next step fetches. -/
def State.placeWord (s : State) (nbits w : Nat) : State :=
  let t := s.readyToFetch
  t.writeBytes t.pc.toNat (tableBytes nbits w)

end Sys2Proof.Machine
end

