-- ==== Sys2Proof/Machine/Step.lean ====
section
/-! DEFINITION. The core's move, `Step` (spec 60_exceptions.md R180), and the state whose next step fetches a given word
(for the host's check of the opcode table). -/

namespace Sys2Proof.Machine

/-- One Step: nothing in HALTED and in AWAITING_KEY (D18; log 15), one instruction in RUNNING (R180). -/
def step (s : State) : Host.Outcome State Fault Refusal :=
  match s.run with
  | .halted => .next s
  | .awaitingKey => .next s
  | .running => runOne s

/-- `s` with the instruction of a table word stored where the next step fetches it. -/
def State.withFetchWord (s : State) (nbits w : Nat) : State := s.placeWord nbits w

end Sys2Proof.Machine
end

