-- ==== Sys2Proof/Machine/HostPort.lean ====
section
/-! DEFINITION. The host's moves around the core (spec 60_exceptions.md R179 to R190, 70_reset_and_hazards.md R200), the
reply each gives, what a Step reports, and the two agents' moves as one type. -/

namespace Sys2Proof.Machine

/-- Reset (R181, R200). -/
def hostReset (s : State) : Host.Outcome State Fault Refusal := .next s.resetOp

/-- KeyDown(k): the latch bit is set; while `LD Vx,K` waits the key's number is stored, `pc` advances and the core runs
again (R154, R182, D17; log 14). -/
def hostKeyDown (k : KeyIdx) (s : State) : Host.Outcome State Fault Refusal :=
  .next (if s.run = .awaitingKey then (((s.setKey k true).setReg s.kx (keyNumber k)).advance).endWait
    else s.setKey k true)

/-- KeyUp(k): the latch bit is cleared, nothing else (R183). -/
def hostKeyUp (k : KeyIdx) (s : State) : Host.Outcome State Fault Refusal := .next (s.setKey k false)

/-- A timer after one tick: one less, floor at zero (R184). -/
def tick (t : Byte) : Byte := if t.toNat > 0 then t - 1 else t

/-- TickTimers, the same in every run state (R184, D24). -/
def hostTickTimers (s : State) : Host.Outcome State Fault Refusal := .next ((s.setDT (tick s.DT)).setST (tick s.ST))

/-- Do `k` if a `count`-byte host access at `a` lies in memory; else the host has no such move (D22, U19; log 20). -/
def hostAccess (a count : Nat) (k : State) : Host.Outcome State Fault Refusal :=
  match firstOutOfRange a count with
  | some b => .fault (.hostNoMove b)
  | none => .next k

/-- MemWriteByte(a, b) (R186). -/
def hostMemWriteByte (a : Nat) (b : Byte) (s : State) : Host.Outcome State Fault Refusal :=
  hostAccess a 1 (s.writeBytes a [b])

/-- MemWriteWord(a, v), big endian (R186). -/
def hostMemWriteWord (a : Nat) (v : Word) (s : State) : Host.Outcome State Fault Refusal :=
  hostAccess a 2 (s.writeBytes a [v.hiByte, v.loByte])

/-- MemReadByte(a): no state changes (R187). -/
def hostMemReadByte (a : Nat) (s : State) : Host.Outcome State Fault Refusal := hostAccess a 1 s

/-- MemReadWord(a): no state changes (R187). -/
def hostMemReadWord (a : Nat) (s : State) : Host.Outcome State Fault Refusal := hostAccess a 2 s

/-- Seed(n): the source starts again at seed `n` (R190; log 3). -/
def hostSeed (n : Nat) (s : State) : Host.Outcome State Fault Refusal :=
  .next { s with rng := { seed := n, draws := 0 } }

/-- The host's moves (R179). -/
inductive HostMove where
  | reset
  | keyDown (k : KeyIdx)
  | keyUp (k : KeyIdx)
  | tickTimers
  | memWriteByte (a : Nat) (b : Byte)
  | memWriteWord (a : Nat) (v : Word)
  | memReadByte (a : Nat)
  | memReadWord (a : Nat)
  | fbRead (row : Fin Config.displayHeight) (col : Fin Config.displayWidth)
  | status
  | seed (n : Nat)
  deriving DecidableEq, Repr

/-- What a host move does to the state. -/
def hostMove (m : HostMove) (s : State) : Host.Outcome State Fault Refusal :=
  match m with
  | .reset => hostReset s
  | .keyDown k => hostKeyDown k s
  | .keyUp k => hostKeyUp k s
  | .tickTimers => hostTickTimers s
  | .memWriteByte a b => hostMemWriteByte a b s
  | .memWriteWord a v => hostMemWriteWord a v s
  | .memReadByte a => hostMemReadByte a s
  | .memReadWord a => hostMemReadWord a s
  | .fbRead _ _ => .next s
  | .status => .next s
  | .seed n => hostSeed n s

/-- What `Status()` shows of a state (R189). -/
structure Status where
  run : RunState
  kx : RegIdx
  faultCause : FaultCause
  faultInfo : Word
  DT : Byte
  ST : Byte
  deriving DecidableEq, Repr

/-- `Status()` (R189). -/
def State.status (s : State) : Status where
  run := s.run
  kx := s.kx
  faultCause := s.faultCause
  faultInfo := s.faultInfo
  DT := s.DT
  ST := s.ST

/-- What a host move answers. -/
inductive HostReply where
  /-- an operation without a result -/
  | done
  /-- `MemReadByte` -/
  | byte (b : Byte)
  /-- `MemReadWord` -/
  | word (w : Word)
  /-- `FbRead` -/
  | pixel (p : Bool)
  /-- `Status` -/
  | status (st : Status)
  deriving DecidableEq, Repr

/-- The reply of a host move made in `s`; none for an access outside memory, which is no move (R187 to R189, D22). -/
def hostReply (m : HostMove) (s : State) : Option HostReply :=
  match m with
  | .reset => some .done
  | .keyDown _ => some .done
  | .keyUp _ => some .done
  | .tickTimers => some .done
  | .memWriteByte a _ => if a ≤ 0xFFF then some .done else none
  | .memWriteWord a _ => if a ≤ 0xFFE then some .done else none
  | .memReadByte a => if a ≤ 0xFFF then some (.byte (s.readByte a)) else none
  | .memReadWord a => if a ≤ 0xFFE then some (.word (wordOfBytes (s.readByte a) (s.readByte (a + 1)))) else none
  | .fbRead row col => some (.pixel (s.pixel row col))
  | .status => some (.status s.status)
  | .seed _ => some .done

/-- What a Step reports to the host (R180). -/
inductive StepReport where
  /-- an instruction was executed -/
  | ok
  /-- the core waits for a key -/
  | awaitingInput
  /-- this step raised a fault -/
  | faulted (cause : FaultCause) (info : Word)
  /-- an earlier step did -/
  | halted (cause : FaultCause) (info : Word)
  deriving DecidableEq, Repr

/-- The report of a step from `s` to `t` (R180). -/
def reportOf (s t : State) : StepReport :=
  match s.run with
  | .halted => .halted s.faultCause s.faultInfo
  | .awaitingKey => .awaitingInput
  | .running =>
    match t.run with
    | .halted => .faulted t.faultCause t.faultInfo
    | .awaitingKey => .awaitingInput
    | .running => .ok

/-- What the Step made in `s` reports (R180). -/
def stepReport (s : State) : Option StepReport :=
  match step s with
  | .next t => some (reportOf s t)
  | .fault _ => none
  | .refused _ => none

/-- A move of either agent (R179). -/
inductive Move where
  | step
  | host (m : HostMove)
  deriving DecidableEq, Repr

/-- What a move does to the state. -/
def act (m : Move) (s : State) : Host.Outcome State Fault Refusal :=
  match m with
  | .step => step s
  | .host h => hostMove h s

/-- Moves one after another, in the order given (R59, R179), stopping at the first that is none. -/
def runMoves : List Move → State → Host.Outcome State Fault Refusal
  | [], s => .next s
  | m :: ms, s =>
    match act m s with
    | .next t => runMoves ms t
    | .fault r => .fault r
    | .refused r => .refused r

end Sys2Proof.Machine
end

