-- ==== Sys2Proof/Safety.lean ====
section
/-! DEFINITION. The terms statements use: the invariant of reachable states (spec 10_state.md R27, R38), reachability by
the moves of both agents, what a move keeps, the closed form of a sprite, and the end of a run
(60_exceptions.md R178, R197). -/

namespace Sys2Proof.Machine

/-- The well-formedness of reachable states (R27, R38), with what makes it inductive: the memory's canonical form, a
waiting core's `pc` at a word that was fetched (R32), no info without a cause (R33), and the constraint on FONT_BASE
(R5). -/
structure State.Inv (s : State) : Prop where
  memWf : s.mem.wf = true
  pcRange : s.pc.toNat ≤ 0x1002
  spRange : s.sp ≤ s.stackCapacity
  deadSlots : ∀ j, j < s.sp → s.slot j = 0
  liveSlots : ∀ j, s.sp ≤ j → j < s.stackCapacity →
    0x002 ≤ (s.slot j).toNat ∧ (s.slot j).toNat ≤ 0x1000
  haltedIff : s.run = .halted ↔ s.faultCause ≠ .none
  kxZero : s.run ≠ .awaitingKey → s.kx = 0
  waitPc : s.run = .awaitingKey → s.pc.toNat ≤ 0xFFE
  noInfo : s.faultCause = .none → s.faultInfo = 0
  fontFits : s.fontBase.toNat + 16 * Params.fontStride ≤ 0x200

/-- Reachable from the fresh machine by moves of the core and the host (R38, R179). -/
inductive Reachable : State → Prop where
  | reset : Reachable State.reset
  | move {s t : State} (m : Move) : Reachable s → act m s = .next t → Reachable t

/-- The parts of the state besides the general registers and the program counter. -/
inductive Part where
  | index | stack | timers | memory | display | keys | control | random | params
  deriving DecidableEq, Repr

/-- `t` has a part as `s` has it. -/
def Part.Same (p : Part) (s t : State) : Prop :=
  match p with
  | .index => t.I = s.I
  | .stack => t.sp = s.sp ∧ t.stack = s.stack
  | .timers => t.DT = s.DT ∧ t.ST = s.ST
  | .memory => ∀ a, t.readByte a = s.readByte a
  | .display => ∀ row col, t.pixel row col = s.pixel row col
  | .keys => ∀ k, t.keyDown? k = s.keyDown? k
  | .control => t.run = s.run ∧ t.kx = s.kx ∧ t.faultCause = s.faultCause ∧ t.faultInfo = s.faultInfo
  | .random => t.rng = s.rng
  | .params => t.fontBase = s.fontBase ∧ t.stackCapacity = s.stackCapacity

/-- Every part but those listed is as before. -/
def KeepsParts (changed : List Part) (s t : State) : Prop := ∀ p, p ∉ changed → p.Same s t

/-- Every general register but those listed is as before. -/
def KeepsRegs (changed : List RegIdx) (s t : State) : Prop := ∀ r, r ∉ changed → t.reg r = s.reg r

/-- `t` is `s` with fault entry taken: cause and info recorded, HALTED, every register, `pc`, `kx` and every other part
as before (R175, R176). -/
def FaultEntry (s t : State) (cause : FaultCause) (info : Word) : Prop :=
  t.run = .halted ∧ t.faultCause = cause ∧ t.faultInfo = info ∧ t.kx = s.kx ∧ t.pc = s.pc ∧
  KeepsRegs [] s t ∧ KeepsParts [.control] s t

/-- The pixel (row, col) lies under a 1 bit of the sprite DRW x, y, n draws in `s` (R162, R163). -/
def SpriteCovers (s : State) (x y : RegIdx) (n : Fin 16) (row : Fin Config.displayHeight)
    (col : Fin Config.displayWidth) : Prop :=
  ∃ r c, r < n.val ∧ c < 8 ∧ ((s.reg y).toNat + r) % Config.displayHeight = row.val ∧
    ((s.reg x).toNat + c) % Config.displayWidth = col.val ∧ spriteBit (s.readByte (s.I.toNat + r)) c = true

/-- The conventional end of a program: RUNNING at a jump to its own address (R197, D38). -/
def State.AtSelfJump (s : State) : Prop :=
  s.run = .running ∧ s.pc.toNat ≤ 0xFFE ∧ ∃ nnn, decodeWord s.fetchWord = .instr (.jp nnn) ∧ nnn.toNat = s.pc.toNat

end Sys2Proof.Machine
end

