-- ==== Sys2Proof/Certificates/Slice0/Obligations.lean ====
section
/-! DEFINITION. The statements for the provers. Each docstring names the rule or section of spec/ it formalises; where a
clause rests on a choice the spec marks as its own (D<n> of 92_eei_decisions.md) or the model's (log <n>) it says so. -/

open Sys2Proof Sys2Proof.Machine

/-! ### Reset and the invariant of reachable states -/

/-- 70_reset_and_hazards.md section 1: the host's Reset from any state. Memory, stack, pc and sp are the source's; the
other zeros and RUNNING are the spec's decision D19 (log 5), key latch and random source kept D20 (log 6). -/
def Obligations.ResetGivesTheResetValues : Prop :=
  ∀ s : State, ∃ t, hostMove .reset s = .next t ∧
    (∀ a, t.readByte a = 0) ∧ (∀ j, t.slot j = 0) ∧ t.pc.toNat = 0x200 ∧ t.sp = t.stackCapacity ∧
    (∀ x, t.reg x = 0) ∧ t.I = 0 ∧ t.DT = 0 ∧ t.ST = 0 ∧ (∀ row col, t.pixel row col = false) ∧
    t.run = .running ∧ t.kx = 0 ∧ t.faultCause = .none ∧ t.faultInfo = 0 ∧ KeepsParts
      [.index, .stack, .timers, .memory, .display, .control] s t

/-- 70_reset_and_hazards.md section 1 (fresh machine): the power-on state is what Reset makes of it, with every key
released (D19, D20; log 5, log 6). -/
def Obligations.FreshMachineIsAResetMachine : Prop :=
  hostMove .reset State.reset = .next State.reset ∧ ∀ k, State.reset.keyDown? k = false

/-- The invariant holds at power-on. -/
def Obligations.ResetMeetsTheInvariant : Prop := State.reset.Inv

/-- 10_state.md section 11: every step keeps the invariant (memory in canonical form, pc at most 0x1002, sp in range, dead
stack slots 0, live ones return addresses, HALTED exactly with a cause, kx 0 unless waiting). -/
def Obligations.EveryStepKeepsTheInvariant : Prop :=
  ∀ s t : State, s.Inv → step s = .next t → t.Inv

/-- 10_state.md section 11: so does every host move. -/
def Obligations.EveryHostMoveKeepsTheInvariant : Prop :=
  ∀ (m : HostMove) (s t : State), s.Inv → hostMove m s = .next t → t.Inv

/-- 10_state.md sections 5 and 11 (which stack slots are live: D2, D3, log 19; the cause codes: D15, log 12): what holds of
every state reachable by steps and host moves, and of the pc that JP, CALL, JP V0 and RET write there. -/
def Obligations.ReachableStatesAreWellFormed : Prop :=
  ∀ s : State, Reachable s →
    s.pc.toNat ≤ 0x1002 ∧ s.sp ≤ s.stackCapacity ∧
    (∀ j, j < s.sp → s.slot j = 0) ∧
    (∀ j, s.sp ≤ j → j < s.stackCapacity →
      0x002 ≤ (s.slot j).toNat ∧ (s.slot j).toNat ≤ 0x1000) ∧
    (s.run = .halted ↔ s.faultCause.code ≠ 0) ∧ (s.run ≠ .awaitingKey → s.kx = 0) ∧
    (∀ i t, s.run = .running → s.pc.toNat ≤ 0xFFE → decodeWord s.fetchWord = .instr i → step s = .next t →
      t.run = .running →
      ((∃ nnn, i = .jp nnn ∨ i = .call nnn ∨ i = .jpV0 nnn) → t.pc.toNat ≤ 0xFFF) ∧
      (i = .ret → t.pc.toNat ≤ 0x1000))

/-! ### Encoding -/

/-- 30_encoding.md sections 1 to 4: the decoder reads back every well-formed instruction from its word, every operand at
every value. -/
def Obligations.DecodeOfEncodeIsTheInstruction : Prop :=
  ∀ i : Instr, i.wf = true → decodeWord (encode i) = .instr i

/-- 30_encoding.md section 4: outside the don't-care nibble of families 5 and 9 (D14, log 10) no bit of a decoded word is
lost, and there only that nibble is. -/
def Obligations.EncodeOfDecodeIsTheWord : Prop :=
  ∀ (w : Word) (i : Instr), decodeWord w = .instr i →
    i.wf = true ∧
    (fieldF w ≠ 5 ∧ fieldF w ≠ 9 → encode i = w) ∧
    (fieldF w = 5 ∨ fieldF w = 9 → (encode i).toNat = w.toNat - w.toNat % 16)

/-- 30_encoding.md section 4 (numbers: D34, log 18): the illegal words are exactly 8xyN with
N in 8, 9, A, B, C, D, F, ExKK with KK not in 9E, A1, and FxKK with KK not one of the nine. -/
def Obligations.IllegalWordsAreExactlyThese : Prop :=
  ∀ w : Word, (decodeWord w = .illegal w ↔
    (fieldF w = 8 ∧ (fieldN w).val ∈ [0x8, 0x9, 0xA, 0xB, 0xC, 0xD, 0xF]) ∨
    (fieldF w = 0xE ∧ (fieldKK w).toNat ∉ [0x9E, 0xA1]) ∨
    (fieldF w = 0xF ∧ (fieldKK w).toNat ∉ [0x07, 0x0A, 0x15, 0x18, 0x1E, 0x29, 0x33, 0x55, 0x65])) ∧
    (decodeWord w ≠ .illegal w → ∃ i, decodeWord w = .instr i)

/-- 30_encoding.md section 3 (numbers: D34, log 18): a word decodes to an instruction only if it has the bits of that
instruction's row of the table. -/
def Obligations.DecodedWordsHaveTheirRowsBits : Prop :=
  ∀ (w : Word) (i : Instr), decodeWord w = .instr i → w &&& i.maskBits = i.matchBits

/-- 30_encoding.md sections 2 to 4 (numbers: D34, log 18; 0x01E0 is SYS and not CLS: D13, log 10; the low nibble of 0x512F
is ignored: D14, log 10): the three words the source shows, words of several other
families, and two words that no instruction has, read from their bytes. -/
def Obligations.SampleWordsDecode : Prop :=
  decodeBytes [0x11, 0x23] = .instr (.jp 0x123) [] ∧
  decodeBytes [0xB0, 0x12] = .instr (.jpV0 0x012) [] ∧
  decodeBytes [0xF3, 0x55] = .instr (.stRegs 3) [] ∧
  decodeBytes [0x00, 0xE0] = .instr .cls [] ∧
  decodeBytes [0x00, 0xEE] = .instr .ret [] ∧
  decodeBytes [0x01, 0xE0] = .instr (.sys 0x1E0) [] ∧
  decodeBytes [0x6A, 0x7F] = .instr (.ldByte 0xA 0x7F) [] ∧
  decodeBytes [0x81, 0x2E] = .instr (.shl 1 2) [] ∧
  decodeBytes [0x51, 0x2F] = .instr (.seReg 1 2) [] ∧
  decodeBytes [0xD0, 0x1F] = .instr (.drw 0 1 15) [] ∧
  decodeBytes [0xE2, 0x9E] = .instr (.skp 2) [] ∧
  decodeBytes [0x81, 0x28] = .illegal 0x8128 [] ∧
  decodeBytes [0xF1, 0x75] = .illegal 0xF175 []

/-! ### The step -/

/-- 60_exceptions.md section 3 (Step): a step in RUNNING whose word decodes to `i` is `exec i`; nothing is added around
it. -/
def Obligations.StepRunsTheDecodedInstruction : Prop :=
  ∀ (s : State) (i : Instr), s.run = .running → s.pc.toNat ≤ 0xFFE →
    decodeBytes [s.readByte s.pc.toNat, s.readByte (s.pc.toNat + 1)] = .instr i [] → step s = exec i s

/-- 20_memory.md section 4 (D7, log 11): the fetch fault, with the address it records. -/
def Obligations.FetchOutOfRangeFaults : Prop :=
  ∀ s : State, s.run = .running → 0xFFE < s.pc.toNat → ∃ t, step s = .next t ∧
    FaultEntry s t .addressOutOfRange (if 0xFFF < s.pc.toNat then s.pc else 0x1000)

/-- 60_exceptions.md section 1 (fault entry: D15, D8; log 12): a word that no instruction has takes DecodeError with that
word, `pc` left at its address. -/
def Obligations.IllegalWordTakesDecodeError : Prop :=
  ∀ (s : State) (w : Word), s.run = .running → s.pc.toNat ≤ 0xFFE →
    s.readByte s.pc.toNat = w.hiByte → s.readByte (s.pc.toNat + 1) = w.loByte → decodeWord w = .illegal w →
    ∃ t, step s = .next t ∧ FaultEntry s t .decodeError w

/-- 60_exceptions.md section 3 (D18, log 15): a step in HALTED or AWAITING_KEY changes nothing and reports the run
state. -/
def Obligations.StepOutsideRunningDoesNothing : Prop :=
  ∀ s : State,
    (s.run = .halted → step s = .next s ∧ stepReport s = some (.halted s.faultCause s.faultInfo)) ∧
    (s.run = .awaitingKey → step s = .next s ∧ stepReport s = some .awaitingInput)

/-- 60_exceptions.md section 3: the step is total, and in RUNNING it reports a fault exactly when one was taken, waiting
exactly when `LD Vx,K` began to wait. -/
def Obligations.StepIsTotalAndReports : Prop :=
  ∀ s : State, ∃ t, step s = .next t ∧
    (s.run = .running →
      (stepReport s = some (.faulted t.faultCause t.faultInfo) ↔ t.run = .halted) ∧
      (stepReport s = some .awaitingInput ↔ t.run = .awaitingKey) ∧
      (stepReport s = some .ok ↔ t.run = .running))

/-! ### Faults -/

/-- 60_exceptions.md section 1 (D8, D15; log 11, log 12): a step that ends in HALTED has changed nothing but run,
fault_cause and fault_info. -/
def Obligations.FaultsArePrecise : Prop :=
  ∀ s t : State, s.run = .running → step s = .next t → t.run = .halted →
    t.faultCause ≠ .none ∧ FaultEntry s t t.faultCause t.faultInfo

/-- 60_exceptions.md section 1 (where an address is checked: D7, log 11; causes and infos recorded: D15, log 12; `sp` 0 is
full, the capacity empty: D2, log 19; no check for DRW with `n` = 0: D26, log 17): the places that raise each fault,
each with its condition and what it records; there are no others. -/
def Obligations.FaultsComeFromTheirPlacesOnly : Prop :=
  ∀ s t : State, s.run = .running → step s = .next t → t.run = .halted →
    (0xFFE < s.pc.toNat ∧ t.faultCause = .addressOutOfRange ∧
      t.faultInfo.toNat = (if 0xFFF < s.pc.toNat then s.pc.toNat else 0x1000)) ∨
    (s.pc.toNat ≤ 0xFFE ∧ decodeWord s.fetchWord = .illegal s.fetchWord ∧ t.faultCause = .decodeError ∧
      t.faultInfo = s.fetchWord) ∨
    (s.pc.toNat ≤ 0xFFE ∧ ∃ i, decodeWord s.fetchWord = .instr i ∧
      ((∃ nnn, i = .call nnn ∧ s.sp = 0 ∧ t.faultCause = .stackOverflow ∧ t.faultInfo = 0) ∨
       (i = .ret ∧ s.sp = s.stackCapacity ∧ t.faultCause = .stackUnderflow ∧ t.faultInfo = 0) ∨
       (∃ nnn, i = .jpV0 nnn ∧ 0xFFF < (s.reg 0).toNat + nnn.toNat ∧ t.faultCause = .addressOutOfRange ∧
         t.faultInfo.toNat = (s.reg 0).toNat + nnn.toNat) ∨
       (((∃ x y n, i = .drw x y n ∧ 0 < n.val ∧ 0xFFF < s.I.toNat + n.val - 1) ∨
         (∃ x, i = .ldB x ∧ 0xFFF < s.I.toNat + 2) ∨
         (∃ x, (i = .stRegs x ∨ i = .ldRegs x) ∧ 0xFFF < s.I.toNat + x.val)) ∧
         t.faultCause = .addressOutOfRange ∧
         t.faultInfo.toNat = (if 0xFFF < s.I.toNat then s.I.toNat else 0x1000))))

/-- 60_exceptions.md section 1, no return (fault registers: D15, log 12; a step in HALTED does nothing: D18, log 15;
RUNNING and no fault after Reset: D19, log 5): HALTED is left only by Reset, which clears the fault registers; a step
does nothing there, and no other move overwrites the recorded fault. That no move but Reset moves `pc` there is read
from the operations of section 3. -/
def Obligations.HaltedIsLeftByResetOnly : Prop :=
  ∀ (m : Move) (s t : State), s.run = .halted → act m s = .next t →
    (m = .host .reset → t.run = .running ∧ t.faultCause = .none ∧ t.faultInfo = 0) ∧
    (m ≠ .host .reset →
      t.run = .halted ∧ t.faultCause = s.faultCause ∧ t.faultInfo = s.faultInfo ∧ t.pc = s.pc) ∧
    (m = .step → t = s)

/-- 10_state.md section 8 (D16): every change of the run state, by either agent, is one of those of the table. -/
def Obligations.RunStateChangesAreTheTables : Prop :=
  ∀ (m : Move) (s t : State), act m s = .next t → t.run ≠ s.run →
    (m = .host .reset ∧ t.run = .running) ∨
    (s.run = .awaitingKey ∧ (∃ k, m = .host (.keyDown k)) ∧ t.run = .running) ∨
    (m = .step ∧ s.run = .running ∧ t.run = .halted) ∨
    (m = .step ∧ s.run = .running ∧ t.run = .awaitingKey ∧ s.pc.toNat ≤ 0xFFE ∧
      ∃ x, decodeWord s.fetchWord = .instr (.ldVxK x))

/-! ### Control flow -/

/-- 40_control_flow.md, SYS addr (D12, log 9): only `pc` moves. -/
def Obligations.SysOnlyAdvances : Prop :=
  ∀ (nnn : Addr12) (s : State), ∃ t, exec (.sys nnn) s = .next t ∧ t.pc = s.pc + 2 ∧
    KeepsRegs [] s t ∧ KeepsParts [] s t

/-- 40_control_flow.md, RET (stack direction: D2, log 19; fault entry: D15, log 12): RET on the empty stack faults; else
it pops into `pc`, clears the slot, and changes nothing else. `sp` above the capacity is no reachable state
(`ReachableStatesAreWellFormed`). -/
def Obligations.RetPopsOrUnderflows : Prop :=
  ∀ s : State,
    (s.sp = s.stackCapacity → ∃ t, exec .ret s = .next t ∧ FaultEntry s t .stackUnderflow 0) ∧
    (s.sp < s.stackCapacity → ∃ t, exec .ret s = .next t ∧ t.pc = s.slot s.sp ∧ t.sp = s.sp + 1 ∧
      t.slot s.sp = 0 ∧ (∀ j, j ≠ s.sp → t.slot j = s.slot j) ∧
      t.stackCapacity = s.stackCapacity ∧ KeepsRegs [] s t ∧ KeepsParts [.stack] s t)

/-- R102: JP sets `pc` to `nnn` and changes nothing else. -/
def Obligations.JpSetsPc : Prop :=
  ∀ (nnn : Addr12) (s : State), ∃ t, exec (.jp nnn) s = .next t ∧ t.pc.toNat = nnn.toNat ∧
    KeepsRegs [] s t ∧ KeepsParts [] s t

/-- 40_control_flow.md, CALL addr (pushed value not checked: D27; stack direction: D2, log 19; fault entry: D15,
log 12): CALL on the full stack faults; else it pushes
`pc + 2` below the live entries and jumps. -/
def Obligations.CallPushesOrOverflows : Prop :=
  ∀ (nnn : Addr12) (s : State), s.sp ≤ s.stackCapacity →
    (s.sp = 0 → ∃ t, exec (.call nnn) s = .next t ∧ FaultEntry s t .stackOverflow 0) ∧
    (s.sp ≠ 0 → ∃ t, exec (.call nnn) s = .next t ∧ t.pc.toNat = nnn.toNat ∧ t.sp + 1 = s.sp ∧
      t.slot t.sp = s.pc + 2 ∧ (∀ j, j ≠ t.sp → t.slot j = s.slot j) ∧
      t.stackCapacity = s.stackCapacity ∧ KeepsRegs [] s t ∧ KeepsParts [.stack] s t)

/-- 40_control_flow.md, CALL addr, the source's property: CALL then RET restores `pc` + 2 and `sp`, and leaves the slot
zero and the rest of the stack as before, whatever ran between and left stack and sp alone. -/
def Obligations.CallThenRetReturns : Prop :=
  ∀ (nnn : Addr12) (s : State), s.sp ≤ s.stackCapacity → s.sp ≠ 0 →
    ∃ t, exec (.call nnn) s = .next t ∧
      ∀ u : State, u.sp = t.sp → u.stack = t.stack → ∃ v, exec .ret u = .next v ∧
        v.pc = s.pc + 2 ∧ v.sp = s.sp ∧ v.slot (s.sp - 1) = 0 ∧
        ∀ j, j ≠ s.sp - 1 → v.slot j = s.slot j

/-- 40_control_flow.md, the four compare skips (senses: D33, log 18): `pc` moves by 4 if the comparison holds, else by 2,
and nothing else changes. -/
def Obligations.CompareSkipsMovePcOnly : Prop :=
  ∀ (x y : RegIdx) (kk : Byte) (s : State),
    (∃ t, exec (.seByte x kk) s = .next t ∧ t.pc = s.pc + (if (s.reg x).toNat = kk.toNat then 4 else 2) ∧
      KeepsRegs [] s t ∧ KeepsParts [] s t) ∧
    (∃ t, exec (.sneByte x kk) s = .next t ∧ t.pc = s.pc + (if (s.reg x).toNat = kk.toNat then 2 else 4) ∧
      KeepsRegs [] s t ∧ KeepsParts [] s t) ∧
    (∃ t, exec (.seReg x y) s = .next t ∧ t.pc = s.pc + (if (s.reg x).toNat = (s.reg y).toNat then 4 else 2) ∧
      KeepsRegs [] s t ∧ KeepsParts [] s t) ∧
    (∃ t, exec (.sneReg x y) s = .next t ∧ t.pc = s.pc + (if (s.reg x).toNat = (s.reg y).toNat then 2 else 4) ∧
      KeepsRegs [] s t ∧ KeepsParts [] s t)

/-- R151, R152: the key skips test the key numbered by the low nibble of `Vx`. -/
def Obligations.KeySkipsMovePcOnly : Prop :=
  ∀ (x : RegIdx) (k : KeyIdx) (s : State), k.val = (s.reg x).toNat % 16 →
    (∃ t, exec (.skp x) s = .next t ∧ t.pc = s.pc + (if s.keyDown? k = true then 4 else 2) ∧
      KeepsRegs [] s t ∧ KeepsParts [] s t) ∧
    (∃ t, exec (.sknp x) s = .next t ∧ t.pc = s.pc + (if s.keyDown? k = true then 2 else 4) ∧
      KeepsRegs [] s t ∧ KeepsParts [] s t)

/-- 40_control_flow.md, JP V0, addr (fault at the jump: D7, log 11): the target is V0 + nnn, not masked; outside memory it
faults. -/
def Obligations.JpV0JumpsOrFaults : Prop :=
  ∀ (nnn : Addr12) (s : State),
    ((s.reg 0).toNat + nnn.toNat ≤ 0xFFF → ∃ t, exec (.jpV0 nnn) s = .next t ∧
      t.pc.toNat = (s.reg 0).toNat + nnn.toNat ∧ KeepsRegs [] s t ∧ KeepsParts [] s t) ∧
    (0xFFF < (s.reg 0).toNat + nnn.toNat → ∃ t, exec (.jpV0 nnn) s = .next t ∧
      FaultEntry s t .addressOutOfRange (BitVec.ofNat 16 ((s.reg 0).toNat + nnn.toNat)))

/-- 40_control_flow.md, the pc policy of all 35 instructions, when no fault is taken. -/
def Obligations.PcPolicyOfEveryInstruction : Prop :=
  ∀ (i : Instr) (s t : State), s.run = .running → exec i s = .next t → t.run ≠ .halted →
    ((∃ nnn, i = .jp nnn ∨ i = .call nnn) ∧ t.pc.toNat ≤ 0xFFF) ∨
    (∃ nnn, i = .jpV0 nnn ∧ t.pc.toNat = (s.reg 0).toNat + nnn.toNat) ∨
    (i = .ret ∧ t.pc = s.slot s.sp) ∨
    ((∃ x, i = .ldVxK x) ∧ t.pc = s.pc) ∨
    (((∃ x kk, i = .seByte x kk ∨ i = .sneByte x kk) ∨ (∃ x y, i = .seReg x y ∨ i = .sneReg x y) ∨
      (∃ x, i = .skp x ∨ i = .sknp x)) ∧ (t.pc = s.pc + 2 ∨ t.pc = s.pc + 4)) ∨
    ((∀ nnn, i ≠ .jp nnn ∧ i ≠ .call nnn ∧ i ≠ .jpV0 nnn) ∧ i ≠ .ret ∧ (∀ x, i ≠ .ldVxK x) ∧
      (∀ x kk, i ≠ .seByte x kk ∧ i ≠ .sneByte x kk) ∧ (∀ x y, i ≠ .seReg x y ∧ i ≠ .sneReg x y) ∧
      (∀ x, i ≠ .skp x ∧ i ≠ .sknp x) ∧ t.pc = s.pc + 2)

/-! ### Load, arithmetic, logic -/

/-- R120, R121, R122: load immediate, add immediate without a flag, move. -/
def Obligations.LoadAddImmediateAndMove : Prop :=
  ∀ (x y : RegIdx) (kk : Byte) (s : State),
    (∃ t, exec (.ldByte x kk) s = .next t ∧ t.reg x = kk ∧ t.pc = s.pc + 2 ∧ KeepsRegs [x] s t ∧
      KeepsParts [] s t) ∧
    (∃ t, exec (.addByte x kk) s = .next t ∧ (t.reg x).toNat = ((s.reg x).toNat + kk.toNat) % 256 ∧
      t.pc = s.pc + 2 ∧ KeepsRegs [x] s t ∧ KeepsParts [] s t) ∧
    (∃ t, exec (.ldReg x y) s = .next t ∧ t.reg x = s.reg y ∧ t.pc = s.pc + 2 ∧ KeepsRegs [x] s t ∧
      KeepsParts [] s t)

/-- 41_alu.md section 3, OR, AND, XOR (VF unchanged: D10, log 8): bit by bit, one register written. -/
def Obligations.BitwiseWritesVxOnly : Prop :=
  ∀ (x y : RegIdx) (s : State),
    (∃ t, exec (.orReg x y) s = .next t ∧
      (∀ b : Fin 8, (t.reg x).getLsbD b = ((s.reg x).getLsbD b || (s.reg y).getLsbD b)) ∧
      t.pc = s.pc + 2 ∧ KeepsRegs [x] s t ∧ KeepsParts [] s t) ∧
    (∃ t, exec (.andReg x y) s = .next t ∧
      (∀ b : Fin 8, (t.reg x).getLsbD b = ((s.reg x).getLsbD b && (s.reg y).getLsbD b)) ∧
      t.pc = s.pc + 2 ∧ KeepsRegs [x] s t ∧ KeepsParts [] s t) ∧
    (∃ t, exec (.xorReg x y) s = .next t ∧
      (∀ b : Fin 8, (t.reg x).getLsbD b = ((s.reg x).getLsbD b ^^ (s.reg y).getLsbD b)) ∧
      t.pc = s.pc + 2 ∧ KeepsRegs [x] s t ∧ KeepsParts [] s t)

/-- 41_alu.md section 3, ADD Vx, Vy: sum modulo 256, carry in VF; with `x = 0xF` the result wins (D9, log 7). -/
def Obligations.AddSetsCarry : Prop :=
  ∀ (x y : RegIdx) (s : State), ∃ t, exec (.addReg x y) s = .next t ∧
    (t.reg x).toNat = ((s.reg x).toNat + (s.reg y).toNat) % 256 ∧
    (x.val ≠ 15 → (t.reg 15).toNat = if 255 < (s.reg x).toNat + (s.reg y).toNat then 1 else 0) ∧
    t.pc = s.pc + 2 ∧ KeepsRegs [x, 15] s t ∧ KeepsParts [] s t

/-- 41_alu.md section 3, SUB and SUBN: difference modulo 256, strict greater-than in VF; with `x = 0xF` the result wins
(D9, log 7). -/
def Obligations.SubtractionsSetStrictGreater : Prop :=
  ∀ (x y : RegIdx) (s : State),
    (∃ t, exec (.subReg x y) s = .next t ∧
      (t.reg x).toNat = ((s.reg x).toNat + 256 - (s.reg y).toNat) % 256 ∧
      (x.val ≠ 15 → (t.reg 15).toNat = if (s.reg y).toNat < (s.reg x).toNat then 1 else 0) ∧
      t.pc = s.pc + 2 ∧ KeepsRegs [x, 15] s t ∧ KeepsParts [] s t) ∧
    (∃ t, exec (.subnReg x y) s = .next t ∧
      (t.reg x).toNat = ((s.reg y).toNat + 256 - (s.reg x).toNat) % 256 ∧
      (x.val ≠ 15 → (t.reg 15).toNat = if (s.reg x).toNat < (s.reg y).toNat then 1 else 0) ∧
      t.pc = s.pc + 2 ∧ KeepsRegs [x, 15] s t ∧ KeepsParts [] s t)

/-- 41_alu.md section 3, SHR and SHL (`Vx` in place: D11): the bit shifted out in VF; `y` does not matter; with `x = 0xF`
the result wins (D9, log 7). -/
def Obligations.ShiftsMoveOneBitOut : Prop :=
  ∀ (x y : RegIdx) (s : State),
    (∃ t, exec (.shr x y) s = .next t ∧ (t.reg x).toNat = (s.reg x).toNat / 2 ∧
      (x.val ≠ 15 → (t.reg 15).toNat = (s.reg x).toNat % 2) ∧
      t.pc = s.pc + 2 ∧ KeepsRegs [x, 15] s t ∧ KeepsParts [] s t) ∧
    (∃ t, exec (.shl x y) s = .next t ∧ (t.reg x).toNat = 2 * (s.reg x).toNat % 256 ∧
      (x.val ≠ 15 → (t.reg 15).toNat = (s.reg x).toNat / 128) ∧
      t.pc = s.pc + 2 ∧ KeepsRegs [x, 15] s t ∧ KeepsParts [] s t)

/-- 10_state.md section 2 (OR, AND, XOR: D10): an instruction that neither has VF as its destination nor is one of the six
flag writers leaves VF unchanged. -/
def Obligations.OnlySixInstructionsWriteVFAsAFlag : Prop :=
  ∀ (i : Instr) (s t : State), exec i s = .next t → t.reg 15 ≠ s.reg 15 →
    (∃ x y, i = .addReg x y ∨ i = .subReg x y ∨ i = .subnReg x y ∨ i = .shr x y ∨ i = .shl x y) ∨
    (∃ x y n, i = .drw x y n) ∨
    (∃ kk, i = .ldByte 15 kk ∨ i = .addByte 15 kk ∨ i = .rnd 15 kk) ∨
    (∃ y, i = .ldReg 15 y ∨ i = .orReg 15 y ∨ i = .andReg 15 y ∨ i = .xorReg 15 y) ∨
    i = .ldVxDT 15 ∨ i = .ldRegs 15

/-! ### Memory and index -/

/-- R140. -/
def Obligations.LdISetsTheAddressRegister : Prop :=
  ∀ (nnn : Addr12) (s : State), ∃ t, exec (.ldI nnn) s = .next t ∧ t.I.toNat = nnn.toNat ∧ t.pc = s.pc + 2 ∧
    KeepsRegs [] s t ∧ KeepsParts [.index] s t

/-- 42_memory_index.md, ADD I, Vx (all 16 bits kept, no fault: D7, D30): the sum modulo 65536, no flag. -/
def Obligations.AddIWrapsAtSixteenBits : Prop :=
  ∀ (x : RegIdx) (s : State), ∃ t, exec (.addI x) s = .next t ∧
    t.I.toNat = (s.I.toNat + (s.reg x).toNat) % 65536 ∧ t.pc = s.pc + 2 ∧
    KeepsRegs [] s t ∧ KeepsParts [.index] s t

/-- 42_memory_index.md, LD F, Vx (FONT_BASE, FONT_STRIDE: D5, log 2), for every FONT_BASE that meets its constraint: the
glyph of the low nibble, at most 0x1FB. -/
def Obligations.LdFPointsAtTheGlyph : Prop :=
  ∀ (x : RegIdx) (s : State), s.fontBase.toNat + 16 * 5 ≤ 0x200 → ∃ t, exec (.ldF x) s = .next t ∧
    t.I.toNat = s.fontBase.toNat + 5 * ((s.reg x).toNat % 16) ∧ t.I.toNat ≤ 0x1FB ∧ t.pc = s.pc + 2 ∧
    KeepsRegs [] s t ∧ KeepsParts [.index] s t

/-- 42_memory_index.md, LD B, Vx (range check and fault entry: D7, D8, D15; log 11, log 12): the three digits, hundreds
lowest, or the fault with nothing written. -/
def Obligations.LdBStoresThreeDigits : Prop :=
  ∀ (x : RegIdx) (s : State),
    (s.I.toNat + 2 ≤ 0xFFF → ∃ t, exec (.ldB x) s = .next t ∧
      (t.readByte s.I.toNat).toNat = (s.reg x).toNat / 100 ∧
      (t.readByte (s.I.toNat + 1)).toNat = (s.reg x).toNat / 10 % 10 ∧
      (t.readByte (s.I.toNat + 2)).toNat = (s.reg x).toNat % 10 ∧
      (∀ a, a < s.I.toNat ∨ s.I.toNat + 2 < a → t.readByte a = s.readByte a) ∧
      t.pc = s.pc + 2 ∧ KeepsRegs [] s t ∧ KeepsParts [.memory] s t) ∧
    (0xFFF < s.I.toNat + 2 → ∃ t, exec (.ldB x) s = .next t ∧
      FaultEntry s t .addressOutOfRange (if 0xFFF < s.I.toNat then s.I else 0x1000))

/-- 42_memory_index.md, LD [I], Vx (byte order of the transfer: D31; range check and fault entry: D7, D8, D15; log 11,
log 12): V0 to Vx at I to I + x, I unchanged, every other
byte unchanged; or the fault with nothing written. -/
def Obligations.StoreWritesV0ToVx : Prop :=
  ∀ (x : RegIdx) (s : State),
    (s.I.toNat + x.val ≤ 0xFFF → ∃ t, exec (.stRegs x) s = .next t ∧
      (∀ j : RegIdx, j.val ≤ x.val → t.readByte (s.I.toNat + j.val) = s.reg j) ∧
      (∀ a, a < s.I.toNat ∨ s.I.toNat + x.val < a → t.readByte a = s.readByte a) ∧
      t.pc = s.pc + 2 ∧ KeepsRegs [] s t ∧ KeepsParts [.memory] s t) ∧
    (0xFFF < s.I.toNat + x.val → ∃ t, exec (.stRegs x) s = .next t ∧
      FaultEntry s t .addressOutOfRange (if 0xFFF < s.I.toNat then s.I else 0x1000))

/-- 42_memory_index.md, LD Vx, [I] (range check and fault entry: D7, D8, D15; log 11, log 12): V0 to Vx from I to I + x, the registers above x, I and memory unchanged; or the fault with nothing loaded. -/
def Obligations.LoadReadsV0ToVx : Prop :=
  ∀ (x : RegIdx) (s : State),
    (s.I.toNat + x.val ≤ 0xFFF → ∃ t, exec (.ldRegs x) s = .next t ∧
      (∀ j : RegIdx, j.val ≤ x.val → t.reg j = s.readByte (s.I.toNat + j.val)) ∧
      (∀ j : RegIdx, x.val < j.val → t.reg j = s.reg j) ∧
      t.pc = s.pc + 2 ∧ KeepsParts [] s t) ∧
    (0xFFF < s.I.toNat + x.val → ∃ t, exec (.ldRegs x) s = .next t ∧
      FaultEntry s t .addressOutOfRange (if 0xFFF < s.I.toNat then s.I else 0x1000))

/-- 42_memory_index.md, LD Vx, [I], the source's round-trip property: what LD [I],Vx stored, LD Vx,[I] loads back, into
any register file, with memory and I as they were. -/
def Obligations.StoreThenLoadGivesTheRegistersBack : Prop :=
  ∀ (x : RegIdx) (s : State), s.I.toNat + x.val ≤ 0xFFF →
    ∃ t, exec (.stRegs x) s = .next t ∧
      ∀ u : State, (∀ a, u.readByte a = t.readByte a) → u.I = t.I → ∃ v, exec (.ldRegs x) u = .next v ∧
        (∀ j : RegIdx, j.val ≤ x.val → v.reg j = s.reg j) ∧ (∀ j : RegIdx, x.val < j.val → v.reg j = u.reg j) ∧
        (∀ a, v.readByte a = t.readByte a) ∧ v.I = s.I

/-- 20_memory.md section 8: a byte stored by LD [I],Vx at the next instruction's address is what the next fetch reads. -/
def Obligations.StoredBytesAreFetched : Prop :=
  ∀ (x j : RegIdx) (s : State), s.I.toNat + x.val ≤ 0xFFF → j.val ≤ x.val →
    ∃ t, exec (.stRegs x) s = .next t ∧
      (s.I.toNat + j.val = t.pc.toNat → t.fetchWord.hiByte = s.reg j) ∧
      (s.I.toNat + j.val = t.pc.toNat + 1 → t.fetchWord.loByte = s.reg j)

/-! ### Timers, random, input -/

/-- R153, R155, R156. -/
def Obligations.TimerLoadsCopyOneByte : Prop :=
  ∀ (x : RegIdx) (s : State),
    (∃ t, exec (.ldVxDT x) s = .next t ∧ t.reg x = s.DT ∧ t.pc = s.pc + 2 ∧ KeepsRegs [x] s t ∧
      KeepsParts [] s t) ∧
    (∃ t, exec (.ldDTVx x) s = .next t ∧ t.DT = s.reg x ∧ t.ST = s.ST ∧ t.pc = s.pc + 2 ∧ KeepsRegs [] s t ∧
      KeepsParts [.timers] s t) ∧
    (∃ t, exec (.ldSTVx x) s = .next t ∧ t.ST = s.reg x ∧ t.DT = s.DT ∧ t.pc = s.pc + 2 ∧ KeepsRegs [] s t ∧
      KeepsParts [.timers] s t)

/-- 43_timers_random_input.md, RND (the byte is free: D23, log 3): one draw is consumed whatever `kk`, the byte depends on
the seed and the number of draws before and on nothing else, and it is masked by `kk`. -/
def Obligations.RndDrawsOneMaskedByte : Prop :=
  ∀ (seed draws : Nat), ∃ r : Byte, ∀ (x : RegIdx) (kk : Byte) (s : State),
    s.rng = { seed := seed, draws := draws } → ∃ t, exec (.rnd x kk) s = .next t ∧
      (∀ b : Fin 8, (t.reg x).getLsbD b = (r.getLsbD b && kk.getLsbD b)) ∧
      t.rng = { seed := seed, draws := draws + 1 } ∧
      t.pc = s.pc + 2 ∧ KeepsRegs [x] s t ∧ KeepsParts [.random] s t

/-- 60_exceptions.md section 3, Seed (D23, log 3): the source is what it is after `n` was given and nothing drawn, whatever
it was before, and nothing else changes. -/
def Obligations.SeedRestartsTheSource : Prop :=
  ∀ (n : Nat) (s : State), ∃ t, hostMove (.seed n) s = .next t ∧ t.rng = { seed := n, draws := 0 } ∧
    t.pc = s.pc ∧ KeepsRegs [] s t ∧ KeepsParts [.random] s t

/-- 43_timers_random_input.md, LD Vx, K, first transition (encoding of the wait: D16, D17; log 14): the core waits, `pc`
stays. -/
def Obligations.LdVxKBeginsToWait : Prop :=
  ∀ (x : RegIdx) (s : State), ∃ t, exec (.ldVxK x) s = .next t ∧ t.run = .awaitingKey ∧ t.kx = x ∧
    t.faultCause = s.faultCause ∧ t.faultInfo = s.faultInfo ∧ t.pc = s.pc ∧
    KeepsRegs [] s t ∧ KeepsParts [.control] s t

/-- 60_exceptions.md section 3, KeyDown and KeyUp (D17, log 14): a key-down event sets the latch bit and, only while the
core waits, stores the key's number, advances `pc` and ends the wait; a key-up event only clears the bit. -/
def Obligations.KeyEventsSetTheLatchAndEndTheWait : Prop :=
  ∀ (k : KeyIdx) (s : State),
    (∃ t, hostMove (.keyDown k) s = .next t ∧ t.keyDown? k = true ∧ (∀ j, j ≠ k → t.keyDown? j = s.keyDown? j) ∧
      (s.run ≠ .awaitingKey → t.pc = s.pc ∧ KeepsRegs [] s t ∧ KeepsParts [.keys] s t) ∧
      (s.run = .awaitingKey → (t.reg s.kx).toNat = k.val ∧ t.pc = s.pc + 2 ∧ t.run = .running ∧ t.kx = 0 ∧
        t.faultCause = s.faultCause ∧ t.faultInfo = s.faultInfo ∧ KeepsRegs [s.kx] s t ∧
        KeepsParts [.keys, .control] s t)) ∧
    (∃ t, hostMove (.keyUp k) s = .next t ∧ t.keyDown? k = false ∧ (∀ j, j ≠ k → t.keyDown? j = s.keyDown? j) ∧
      t.pc = s.pc ∧ KeepsRegs [] s t ∧ KeepsParts [.keys] s t)

/-- 43_timers_random_input.md, LD Vx, K, as a whole: after the wait began, steps, ticks, key releases and memory reads in
any number leave the core waiting at the same `pc` for the same register. -/
def Obligations.OnlyAKeyDownOrResetEndsTheWait : Prop :=
  ∀ (ms : List Move) (s t : State), s.run = .awaitingKey → runMoves ms s = .next t →
    (∀ m ∈ ms, m ≠ .host .reset ∧ ∀ k, m ≠ .host (.keyDown k)) →
    t.run = .awaitingKey ∧ t.pc = s.pc ∧ t.kx = s.kx ∧ KeepsRegs [] s t

/-- 60_exceptions.md section 3, TickTimers (in every run state: D24): each timer one less, floor 0, nothing else. -/
def Obligations.TickDecrementsBothTimers : Prop :=
  ∀ s : State, ∃ t, hostMove .tickTimers s = .next t ∧ t.DT.toNat = s.DT.toNat - 1 ∧
    t.ST.toNat = s.ST.toNat - 1 ∧ t.pc = s.pc ∧ KeepsRegs [] s t ∧ KeepsParts [.timers] s t

/-- 10_state.md section 6: no instruction reads ST; running with another ST gives the same result but for ST. -/
def Obligations.SoundTimerIsInvisible : Prop :=
  ∀ (i : Instr) (s : State) (b : Byte), ∃ t u, exec i s = .next t ∧ exec i (s.setST b) = .next u ∧
    u.setST t.ST = t

/-- 60_exceptions.md section 5, the conventional end of a run (D38): while the core sits at a jump to its own address, no
step, tick, key event, seeding or host read moves it or writes a register. -/
def Obligations.SelfJumpStaysPut : Prop :=
  ∀ (ms : List Move) (s t : State), s.AtSelfJump → runMoves ms s = .next t →
    (∀ m ∈ ms, m ≠ .host .reset ∧ (∀ a b, m ≠ .host (.memWriteByte a b)) ∧
      ∀ a v, m ≠ .host (.memWriteWord a v)) →
    t.AtSelfJump ∧ t.pc = s.pc ∧ KeepsRegs [] s t

/-! ### Display -/

/-- R161. -/
def Obligations.ClsClearsEveryPixel : Prop :=
  ∀ s : State, ∃ t, exec .cls s = .next t ∧ (∀ row col, t.pixel row col = false) ∧ t.pc = s.pc + 2 ∧
    KeepsRegs [] s t ∧ KeepsParts [.display] s t

/-- 44_display.md, DRW (display size D4, bit order D25, corner cases D26; log 4, log 16, log 17): every pixel under a 1 bit of the sprite is
inverted, every other kept, VF is 1 exactly if a set pixel was under a 1 bit; also with n = 0, whatever I. -/
def Obligations.DrwInvertsThePixelsUnderTheSprite : Prop :=
  ∀ (x y : RegIdx) (n : Fin 16) (s : State), n.val = 0 ∨ s.I.toNat + n.val - 1 ≤ 0xFFF →
    ∃ t, exec (.drw x y n) s = .next t ∧
      (∀ row col, SpriteCovers s x y n row col → t.pixel row col = !(s.pixel row col)) ∧
      (∀ row col, ¬ SpriteCovers s x y n row col → t.pixel row col = s.pixel row col) ∧
      ((∃ row col, SpriteCovers s x y n row col ∧ s.pixel row col = true) → t.reg 15 = 1) ∧
      ((¬ ∃ row col, SpriteCovers s x y n row col ∧ s.pixel row col = true) → t.reg 15 = 0) ∧
      t.pc = s.pc + 2 ∧ KeepsRegs [15] s t ∧ KeepsParts [.display] s t

/-- 44_display.md, DRW and 20_memory.md section 4 (all or nothing: D7, D8; log 11): a sprite that leaves memory faults and
draws nothing. -/
def Obligations.DrwOutOfRangeDrawsNothing : Prop :=
  ∀ (x y : RegIdx) (n : Fin 16) (s : State), 0 < n.val → 0xFFF < s.I.toNat + n.val - 1 →
    ∃ t, exec (.drw x y n) s = .next t ∧
      FaultEntry s t .addressOutOfRange (if 0xFFF < s.I.toNat then s.I else 0x1000)

/-- 44_display.md, DRW, the source's scenario: drawing the same sprite twice restores every pixel, and the second draw
reports a collision exactly if the first set a pixel. With a coordinate in VF the second draw is at another place, since
VF is written (D26); of that form `DrwInvertsThePixelsUnderTheSprite` speaks. -/
def Obligations.DrwTwiceRestoresTheFramebuffer : Prop :=
  ∀ (x y : RegIdx) (n : Fin 16) (s : State), x.val ≠ 15 → y.val ≠ 15 → n.val = 0 ∨ s.I.toNat + n.val - 1 ≤ 0xFFF →
    ∃ t u, exec (.drw x y n) s = .next t ∧ exec (.drw x y n) t = .next u ∧
      (∀ row col, u.pixel row col = s.pixel row col) ∧
      (u.reg 15 = 1 ↔ ∃ row col, s.pixel row col = false ∧ t.pixel row col = true)

/-! ### Who may change what -/

/-- 20_memory.md section 1, 10_state.md sections 4 to 7: memory is changed only by the two stores, the framebuffer only by
CLS and DRW, the stack only by CALL and RET, I only by its three loads, DT and ST each only by its own load, the random
source only by RND, and no instruction changes the keys or the machine's parameters. -/
def Obligations.EachUnitHasItsOwnWriters : Prop :=
  ∀ (i : Instr) (s t : State), exec i s = .next t →
    ((∃ x, i = .stRegs x ∨ i = .ldB x) ∨ Part.Same .memory s t) ∧
    ((i = .cls ∨ ∃ x y n, i = .drw x y n) ∨ Part.Same .display s t) ∧
    ((i = .ret ∨ ∃ nnn, i = .call nnn) ∨ Part.Same .stack s t) ∧
    (((∃ nnn, i = .ldI nnn) ∨ ∃ x, i = .addI x ∨ i = .ldF x) ∨ Part.Same .index s t) ∧
    ((∃ x, i = .ldDTVx x) ∨ t.DT = s.DT) ∧ ((∃ x, i = .ldSTVx x) ∨ t.ST = s.ST) ∧
    ((∃ x kk, i = .rnd x kk) ∨ Part.Same .random s t) ∧ Part.Same .keys s t ∧ Part.Same .params s t

/-- 60_exceptions.md section 3, the host's memory and display ports (out of range: D22, log 20): a word written is read
back big endian and touches two bytes; an access outside memory is no move. -/
def Obligations.HostPortWritesAndReadsBigEndian : Prop :=
  ∀ (a : Nat) (b : Byte) (v : Word) (s : State),
    (a ≤ 0xFFE → ∃ t, hostMove (.memWriteWord a v) s = .next t ∧
      (t.readByte a).toNat = v.toNat / 256 ∧ (t.readByte (a + 1)).toNat = v.toNat % 256 ∧
      (∀ c, c ≠ a → c ≠ a + 1 → t.readByte c = s.readByte c) ∧ t.pc = s.pc ∧ KeepsRegs [] s t ∧
      KeepsParts [.memory] s t ∧ hostReply (.memReadWord a) t = some (.word v)) ∧
    (a ≤ 0xFFF → ∃ t, hostMove (.memWriteByte a b) s = .next t ∧ t.readByte a = b ∧
      (∀ c, c ≠ a → t.readByte c = s.readByte c) ∧ t.pc = s.pc ∧ KeepsRegs [] s t ∧
      KeepsParts [.memory] s t ∧ hostReply (.memReadByte a) t = some (.byte b)) ∧
    (0xFFE < a → (∃ r, hostMove (.memWriteWord a v) s = .fault r) ∧ hostReply (.memWriteWord a v) s = none ∧
      (∃ r, hostMove (.memReadWord a) s = .fault r) ∧ hostReply (.memReadWord a) s = none) ∧
    (0xFFF < a → (∃ r, hostMove (.memWriteByte a b) s = .fault r) ∧ hostReply (.memWriteByte a b) s = none ∧
      (∃ r, hostMove (.memReadByte a) s = .fault r) ∧ hostReply (.memReadByte a) s = none)

/-- 60_exceptions.md section 3, the host's reads (what Status shows: D15, D32, log 12): the framebuffer port, Status and the
memory port, a byte and a word high byte first, answer what the state holds, and no read changes the state. -/
def Obligations.HostReadsChangeNothing : Prop :=
  ∀ (a : Nat) (row : Fin Config.displayHeight) (col : Fin Config.displayWidth) (s : State),
    hostMove (.fbRead row col) s = .next s ∧ hostReply (.fbRead row col) s = some (.pixel (s.pixel row col)) ∧
    hostMove .status s = .next s ∧
    (∃ st, hostReply .status s = some (.status st) ∧ st.run = s.run ∧ st.kx = s.kx ∧
      st.faultCause = s.faultCause ∧ st.faultInfo = s.faultInfo ∧ st.DT = s.DT ∧ st.ST = s.ST) ∧
    (a ≤ 0xFFF → hostMove (.memReadByte a) s = .next s ∧
      hostReply (.memReadByte a) s = some (.byte (s.readByte a))) ∧
    (a ≤ 0xFFE → hostMove (.memReadWord a) s = .next s ∧
      ∃ w : Word, hostReply (.memReadWord a) s = some (.word w) ∧
        w.toNat = 256 * (s.readByte a).toNat + (s.readByte (a + 1)).toNat)
end

