-- ==== Sys2Proof/Laws/Decode.lean ====
section
/-! SUPPORT. What the fields of an encoded word are, the two byte orders as inverses, and the decoder on bytes. -/

namespace Sys2Proof

theorem toNat_fieldF (w : Word) : (fieldF w).toNat = w.toNat / 4096 := by
  have := w.isLt
  simp [fieldF, Nat.shiftRight_eq_div_pow]; omega

theorem val_fieldX (w : Word) : (fieldX w).val = w.toNat / 256 % 16 := by
  show (w.extractLsb' 8 4).toNat = _
  simp [Nat.shiftRight_eq_div_pow]

theorem val_fieldY (w : Word) : (fieldY w).val = w.toNat / 16 % 16 := by
  show (w.extractLsb' 4 4).toNat = _
  simp [Nat.shiftRight_eq_div_pow]

theorem val_fieldN (w : Word) : (fieldN w).val = w.toNat % 16 := by
  show (w.extractLsb' 0 4).toNat = _
  simp

theorem toNat_fieldKK (w : Word) : (fieldKK w).toNat = w.toNat % 256 := by
  simp [fieldKK]

theorem toNat_fieldNNN (w : Word) : (fieldNNN w).toNat = w.toNat % 4096 := by
  simp [fieldNNN]

theorem toNat_wordNNN {f : Nat} (hf : f < 16) (nnn : Addr12) : (wordNNN f nnn).toNat = 4096 * f + nnn.toNat := by
  have := nnn.isLt
  rw [wordNNN, BitVec.toNat_ofNat, Nat.mod_eq_of_lt (by omega)]

theorem toNat_wordXKK {f : Nat} (hf : f < 16) (x : RegIdx) (kk : Byte) :
    (wordXKK f x kk).toNat = 4096 * f + 256 * x.val + kk.toNat := by
  have := kk.isLt; have := x.isLt
  rw [wordXKK, BitVec.toNat_ofNat, Nat.mod_eq_of_lt (by omega)]

theorem toNat_wordXYN {f : Nat} (hf : f < 16) (x y : RegIdx) (n : Fin 16) :
    (wordXYN f x y n).toNat = 4096 * f + 256 * x.val + 16 * y.val + n.val := by
  have := n.isLt; have := x.isLt; have := y.isLt
  rw [wordXYN, BitVec.toNat_ofNat, Nat.mod_eq_of_lt (by omega)]

/-- A family selector that is none of 0 to 14 is 15: the decoder's last arm. -/
theorem fieldF_eq_15 {w : Word} (h0 : (fieldF w).toNat ≠ 0) (h1 : (fieldF w).toNat ≠ 1) (h2 : (fieldF w).toNat ≠ 2)
    (h3 : (fieldF w).toNat ≠ 3) (h4 : (fieldF w).toNat ≠ 4) (h5 : (fieldF w).toNat ≠ 5) (h6 : (fieldF w).toNat ≠ 6)
    (h7 : (fieldF w).toNat ≠ 7) (h8 : (fieldF w).toNat ≠ 8) (h9 : (fieldF w).toNat ≠ 9)
    (h10 : (fieldF w).toNat ≠ 10) (h11 : (fieldF w).toNat ≠ 11) (h12 : (fieldF w).toNat ≠ 12)
    (h13 : (fieldF w).toNat ≠ 13) (h14 : (fieldF w).toNat ≠ 14) : (fieldF w).toNat = 15 := by
  have := (fieldF w).isLt
  omega

/-- The two bytes of a word, high first, make the word. -/
@[simp] theorem wordOfBytes_hi_lo (w : Word) : wordOfBytes w.hiByte w.loByte = w := by
  apply BitVec.eq_of_getLsbD_eq
  intro i hi
  simp only [wordOfBytes, Word.hiByte, Word.loByte, BitVec.getLsbD_append, BitVec.getLsbD_extractLsb']
  by_cases h : i < 8
  · simp [h]
  · have h2 : i - 8 < 8 := by omega
    simp [h, h2, show 8 + (i - 8) = i by omega]

/-- The number of a word of two bytes. -/
theorem toNat_wordOfBytes (hi lo : Byte) : (wordOfBytes hi lo).toNat = 256 * hi.toNat + lo.toNat := by
  rw [wordOfBytes, BitVec.toNat_append, Nat.shiftLeft_eq, Nat.mul_comm, ← Nat.two_pow_add_eq_or_of_lt lo.isLt]

theorem hiByte_wordOfBytes (a b : Byte) : Word.hiByte (wordOfBytes a b) = a := by
  apply BitVec.eq_of_getLsbD_eq
  intro i hi
  rw [Word.hiByte, wordOfBytes, BitVec.getLsbD_extractLsb', BitVec.getLsbD_append]
  simp [hi]

theorem loByte_wordOfBytes (a b : Byte) : Word.loByte (wordOfBytes a b) = b := by
  apply BitVec.eq_of_getLsbD_eq
  intro i hi
  rw [Word.loByte, wordOfBytes, BitVec.getLsbD_extractLsb', BitVec.getLsbD_append]
  simp [hi]

/-- The table word decodes as its low 16 bits do. -/
theorem decodeTableWord_eq (nbits w : Nat) :
    decodeTableWord nbits w =
      match decodeWord (BitVec.ofNat 16 (w % 2 ^ nbits)) with
      | .instr i => some i
      | .illegal _ => none := by
  simp only [decodeTableWord, tableBytes, decodeBytes, wordOfBytes_hi_lo]
  cases decodeWord (BitVec.ofNat 16 (w % 2 ^ nbits)) <;> rfl

end Sys2Proof
end

