-- ==== Sys2Proof/Laws/Display.lean ====
section
/-! SUPPORT. What plotting a sprite does, in closed form: every pixel under a 1 bit is inverted, every other pixel is kept,
and the collision flag says whether a set pixel was under a 1 bit (spec 44_display.md R162). -/

namespace Sys2Proof.Machine

theorem Framebuffer.pixel_flip (fb : Framebuffer) (row r : Fin Config.displayHeight) (col c : Fin Config.displayWidth) :
    Framebuffer.pixel (Framebuffer.flip fb row col) r c =
      if r = row ∧ c = col then !(Framebuffer.pixel fb row col) else Framebuffer.pixel fb r c := by
  have hrow : (Framebuffer.flip fb row col)[r] =
      if row.val = r.val then fb[row].set col (!(Framebuffer.pixel fb row col)) else fb[r] :=
    Vector.getElem_set ..
  show ((Framebuffer.flip fb row col)[r])[c] = _
  rw [hrow]
  by_cases hr : row.val = r.val
  · have hr' : r = row := Fin.ext hr.symm
    subst hr'
    have hcol : (fb[r].set col (!(Framebuffer.pixel fb r col)))[c] =
        if col.val = c.val then !(Framebuffer.pixel fb r col) else fb[r][c] :=
      Vector.getElem_set ..
    rw [if_pos rfl, hcol]
    by_cases hc : col.val = c.val
    · rw [if_pos hc, if_pos ⟨rfl, Fin.ext hc.symm⟩]
    · rw [if_neg hc, if_neg (fun e => hc (congrArg Fin.val e.2).symm)]
      rfl
  · rw [if_neg hr, if_neg (fun e => hr (congrArg Fin.val e.1).symm)]
    rfl

@[simp] theorem Framebuffer.pixel_blank (row : Fin Config.displayHeight) (col : Fin Config.displayWidth) :
    Framebuffer.pixel Framebuffer.blank row col = false := by
  simp [Framebuffer.pixel, Framebuffer.blank]

theorem wrapCol_eq {a : Nat} {c : Fin Config.displayWidth} :
    c = wrapCol a ↔ a % Config.displayWidth = c.val :=
  ⟨fun h => h ▸ rfl, fun h => Fin.ext h.symm⟩

theorem wrapRow_eq {a : Nat} {r : Fin Config.displayHeight} :
    r = wrapRow a ↔ a % Config.displayHeight = r.val :=
  ⟨fun h => h ▸ rfl, fun h => Fin.ext h.symm⟩

/-- The pixel (r, c) is under a 1 bit among the first `k` of a byte plotted on `row` from column `x0`. -/
def RowCovers (row : Fin Config.displayHeight) (x0 : Nat) (b : Byte) (k : Nat) (r : Fin Config.displayHeight)
    (c : Fin Config.displayWidth) : Prop :=
  r = row ∧ ∃ i, i < k ∧ (x0 + i) % Config.displayWidth = c.val ∧ spriteBit b i = true

theorem plot_columns (d : Drawing) (row : Fin Config.displayHeight) (x0 : Nat) (b : Byte) {k : Nat} (hk : k ≤ 8) :
    (∀ r c, (RowCovers row x0 b k r c → Framebuffer.pixel ((List.range k).foldl
        (fun d i => d.plot row (wrapCol (x0 + i)) (spriteBit b i)) d).fb r c = !(Framebuffer.pixel d.fb r c)) ∧
      (¬ RowCovers row x0 b k r c → Framebuffer.pixel ((List.range k).foldl
        (fun d i => d.plot row (wrapCol (x0 + i)) (spriteBit b i)) d).fb r c = Framebuffer.pixel d.fb r c)) ∧
    (((List.range k).foldl (fun d i => d.plot row (wrapCol (x0 + i)) (spriteBit b i)) d).collision = true ↔
      d.collision = true ∨ ∃ r c, RowCovers row x0 b k r c ∧ Framebuffer.pixel d.fb r c = true) := by
  induction k with
  | zero =>
    have hno : ∀ r c, ¬ RowCovers row x0 b 0 r c := fun r c h => by
      obtain ⟨_, i, hi, _⟩ := h; omega
    exact ⟨fun r c => ⟨fun h => absurd h (hno r c), fun _ => rfl⟩,
      ⟨.inl, fun h => h.elim id fun ⟨r, c, hc, _⟩ => absurd hc (hno r c)⟩⟩
  | succ k ih =>
    obtain ⟨ihp, ihc⟩ := ih (by omega)
    rw [List.range_succ, List.foldl_append]
    simp only [List.foldl_cons, List.foldl_nil]
    generalize hd : (List.range k).foldl (fun d i => d.plot row (wrapCol (x0 + i)) (spriteBit b i)) d = d' at *
    by_cases hb : spriteBit b k = true
    · -- a 1 bit: its column is none of the earlier ones
      have hfresh : ¬ RowCovers row x0 b k row (wrapCol (x0 + k)) := by
        rintro ⟨_, i, hi, hmod, _⟩
        have : (x0 + i) % 64 = (x0 + k) % 64 := hmod
        omega
      have hsucc : ∀ r c, RowCovers row x0 b (k + 1) r c ↔
          RowCovers row x0 b k r c ∨ (r = row ∧ c = wrapCol (x0 + k)) := by
        intro r c
        constructor
        · rintro ⟨hr, i, hi, hmod, hbit⟩
          by_cases hik : i = k
          · exact .inr ⟨hr, wrapCol_eq.2 (hik ▸ hmod)⟩
          · exact .inl ⟨hr, i, by omega, hmod, hbit⟩
        · rintro (⟨hr, i, hi, hmod, hbit⟩ | ⟨hr, hc⟩)
          · exact ⟨hr, i, by omega, hmod, hbit⟩
          · exact ⟨hr, k, by omega, wrapCol_eq.1 hc, hb⟩
      have hplot : d'.plot row (wrapCol (x0 + k)) (spriteBit b k) =
          { fb := Framebuffer.flip d'.fb row (wrapCol (x0 + k)),
            collision := d'.collision || Framebuffer.pixel d'.fb row (wrapCol (x0 + k)) } := by
        rw [Drawing.plot, if_pos hb]
      rw [hplot]
      refine ⟨fun r c => ⟨fun h => ?_, fun h => ?_⟩, ?_⟩
      · rw [Framebuffer.pixel_flip]
        rcases (hsucc r c).1 h with h | ⟨rfl, rfl⟩
        · rw [if_neg (by rintro ⟨rfl, rfl⟩; exact hfresh h), (ihp r c).1 h]
        · rw [if_pos ⟨rfl, rfl⟩, (ihp _ _).2 hfresh]
      · rw [Framebuffer.pixel_flip, if_neg fun e => h ((hsucc r c).2 (.inr e)),
          (ihp r c).2 fun e => h ((hsucc r c).2 (.inl e))]
      · rw [Bool.or_eq_true, ihc, (ihp _ _).2 hfresh, or_assoc]
        refine or_congr_right ?_
        constructor
        · rintro (⟨r, c, hc, hp⟩ | hp)
          · exact ⟨r, c, (hsucc r c).2 (.inl hc), hp⟩
          · exact ⟨_, _, (hsucc _ _).2 (.inr ⟨rfl, rfl⟩), hp⟩
        · rintro ⟨r, c, hc, hp⟩
          rcases (hsucc r c).1 hc with hc | ⟨rfl, rfl⟩
          · exact .inl ⟨r, c, hc, hp⟩
          · exact .inr hp
    · -- a 0 bit changes nothing
      have hsucc : ∀ r c, RowCovers row x0 b (k + 1) r c ↔ RowCovers row x0 b k r c := by
        intro r c
        constructor
        · rintro ⟨hr, i, hi, hmod, hbit⟩
          exact ⟨hr, i, by rcases Nat.lt_succ_iff_lt_or_eq.1 hi with h | rfl; exacts [h, absurd hbit hb], hmod, hbit⟩
        · rintro ⟨hr, i, hi, hmod, hbit⟩
          exact ⟨hr, i, by omega, hmod, hbit⟩
      have hplot : d'.plot row (wrapCol (x0 + k)) (spriteBit b k) = d' := by
        rw [Drawing.plot, if_neg hb]
      rw [hplot]
      simp only [hsucc]
      exact ⟨ihp, ihc⟩

/-- The pixel (r, c) is under a 1 bit of the sprite `bs` plotted from row `y0` and column `x0`. -/
def BytesCover (x0 y0 : Nat) (bs : List Byte) (r : Fin Config.displayHeight) (c : Fin Config.displayWidth) : Prop :=
  ∃ j i, j < bs.length ∧ i < 8 ∧ (y0 + j) % Config.displayHeight = r.val ∧
    (x0 + i) % Config.displayWidth = c.val ∧ spriteBit (bs.getD j 0) i = true

/-- Plotting a sprite of at most 32 rows: pixels under a 1 bit are inverted, the others kept, and a collision is recorded
exactly if a pixel under a 1 bit was set. -/
theorem plotSprite_spec (d : Drawing) (x0 y0 : Nat) (bs : List Byte) (hlen : bs.length ≤ 32) :
    (∀ r c, (BytesCover x0 y0 bs r c → Framebuffer.pixel (d.plotSprite x0 y0 bs).fb r c = !(Framebuffer.pixel d.fb r c)) ∧
      (¬ BytesCover x0 y0 bs r c → Framebuffer.pixel (d.plotSprite x0 y0 bs).fb r c = Framebuffer.pixel d.fb r c)) ∧
    ((d.plotSprite x0 y0 bs).collision = true ↔
      d.collision = true ∨ ∃ r c, BytesCover x0 y0 bs r c ∧ Framebuffer.pixel d.fb r c = true) := by
  induction bs generalizing d y0 with
  | nil =>
    have hno : ∀ r c, ¬ BytesCover x0 y0 [] r c := by
      rintro r c ⟨j, i, hj, _⟩
      simp at hj
    exact ⟨fun r c => ⟨fun h => absurd h (hno r c), fun _ => rfl⟩,
      ⟨.inl, fun h => h.elim id fun ⟨r, c, hc, _⟩ => absurd hc (hno r c)⟩⟩
  | cons b bs ih =>
    simp only [List.length_cons] at hlen
    obtain ⟨rowp, rowc⟩ := plot_columns d (wrapRow y0) x0 b (k := 8) le_rfl
    obtain ⟨ihp, ihc⟩ := ih (d.plotRow (wrapRow y0) x0 b) (y0 + 1) (by omega)
    have hsplit : ∀ r c, BytesCover x0 y0 (b :: bs) r c ↔
        RowCovers (wrapRow y0) x0 b 8 r c ∨ BytesCover x0 (y0 + 1) bs r c := by
      intro r c
      constructor
      · rintro ⟨j, i, hj, hi, hy, hx, hbit⟩
        cases j with
        | zero => exact .inl ⟨wrapRow_eq.2 hy, i, hi, hx, hbit⟩
        | succ j =>
          refine .inr ⟨j, i, by simpa using hj, hi, ?_, hx, hbit⟩
          rw [← hy]; congr 1; omega
      · rintro (⟨hr, i, hi, hx, hbit⟩ | ⟨j, i, hj, hi, hy, hx, hbit⟩)
        · exact ⟨0, i, by simp, hi, wrapRow_eq.1 hr, hx, hbit⟩
        · refine ⟨j + 1, i, by simpa using hj, hi, ?_, hx, hbit⟩
          rw [← hy]; congr 1; omega
    have hdisj : ∀ r c, RowCovers (wrapRow y0) x0 b 8 r c → ¬ BytesCover x0 (y0 + 1) bs r c := by
      rintro r c ⟨hr, _⟩ ⟨j, i, hj, hi, hy, _⟩
      have h1 : y0 % 32 = r.val := wrapRow_eq.1 hr
      have h2 : (y0 + 1 + j) % 32 = r.val := hy
      omega
    have hrow : ∀ r c, ¬ RowCovers (wrapRow y0) x0 b 8 r c →
        Framebuffer.pixel (d.plotRow (wrapRow y0) x0 b).fb r c = Framebuffer.pixel d.fb r c :=
      fun r c => (rowp r c).2
    have hrow' : ∀ r c, RowCovers (wrapRow y0) x0 b 8 r c →
        Framebuffer.pixel (d.plotRow (wrapRow y0) x0 b).fb r c = !(Framebuffer.pixel d.fb r c) :=
      fun r c => (rowp r c).1
    have hcol : (d.plotRow (wrapRow y0) x0 b).collision = true ↔ d.collision = true ∨
        ∃ r c, RowCovers (wrapRow y0) x0 b 8 r c ∧ Framebuffer.pixel d.fb r c = true := rowc
    rw [Drawing.plotSprite]
    refine ⟨fun r c => ⟨fun h => ?_, fun h => ?_⟩, ?_⟩
    · by_cases h1 : RowCovers (wrapRow y0) x0 b 8 r c
      · rw [(ihp r c).2 (hdisj r c h1), hrow' r c h1]
      · rw [(ihp r c).1 (((hsplit r c).1 h).resolve_left h1), hrow r c h1]
    · rw [(ihp r c).2 fun e => h ((hsplit r c).2 (.inr e)), hrow r c fun e => h ((hsplit r c).2 (.inl e))]
    · rw [ihc, hcol, or_assoc]
      refine or_congr_right ?_
      constructor
      · rintro (⟨r, c, hc, hp⟩ | ⟨r, c, hc, hp⟩)
        · exact ⟨r, c, (hsplit r c).2 (.inl hc), hp⟩
        · refine ⟨r, c, (hsplit r c).2 (.inr hc), ?_⟩
          rwa [hrow r c fun e => hdisj r c e hc] at hp
      · rintro ⟨r, c, hc, hp⟩
        rcases (hsplit r c).1 hc with h1 | h2
        · exact .inl ⟨r, c, h1, hp⟩
        · refine .inr ⟨r, c, h2, ?_⟩
          rwa [hrow r c fun e => hdisj r c e h2]

end Sys2Proof.Machine
end

