-- ==== Sys2Proof/Laws/Memory.lean ====
section
/-! SUPPORT. The laws of memory: read after write, and that every operation keeps the canonical form. -/

namespace Sys2Proof.Machine.Memory

@[simp] theorem read_nil (a : Nat) : Memory.read [] a = 0 := rfl

theorem read_cons (b : Nat) (v : Byte) (m : Memory) (a : Nat) :
    Memory.read ((b, v) :: m) a = if a = b then v else Memory.read m a := rfl

theorem wfFrom_cons {lo a : Nat} {v : Byte} {m : Memory} :
    Memory.wfFrom lo ((a, v) :: m) = true ↔
      lo ≤ a ∧ a < Config.memSize ∧ v ≠ Memory.fill ∧ Memory.wfFrom (a + 1) m = true := by
  simp [Memory.wfFrom, and_assoc]

theorem wfFrom_mono {lo lo' : Nat} (h : lo' ≤ lo) {m : Memory} (hm : Memory.wfFrom lo m = true) :
    Memory.wfFrom lo' m = true := by
  cases m with
  | nil => rfl
  | cons c m =>
    obtain ⟨a, v⟩ := c
    rw [wfFrom_cons] at hm ⊢
    exact ⟨by omega, hm.2⟩

/-- Below its bound a canonical list holds nothing. -/
theorem read_below {lo : Nat} {m : Memory} (hm : Memory.wfFrom lo m = true) {a : Nat} (h : a < lo) :
    Memory.read m a = Memory.fill := by
  induction m generalizing lo with
  | nil => rfl
  | cons c m ih =>
    obtain ⟨b, v⟩ := c
    rw [wfFrom_cons] at hm
    rw [read_cons, if_neg (by omega)]
    exact ih hm.2.2.2 (by omega)

/-- A canonical memory holds nothing outside the address space. -/
theorem read_outside {lo : Nat} {m : Memory} (hm : Memory.wfFrom lo m = true) {a : Nat} (h : Config.memSize ≤ a) :
    Memory.read m a = Memory.fill := by
  induction m generalizing lo with
  | nil => rfl
  | cons c m ih =>
    obtain ⟨b, v⟩ := c
    rw [wfFrom_cons] at hm
    rw [read_cons, if_neg (by omega)]
    exact ih hm.2.2.2

theorem erase_wfFrom {lo : Nat} {m : Memory} (hm : Memory.wfFrom lo m = true) (a : Nat) :
    Memory.wfFrom lo (Memory.erase m a) = true := by
  induction m generalizing lo with
  | nil => rfl
  | cons c m ih =>
    obtain ⟨b, u⟩ := c
    have hc := wfFrom_cons.1 hm
    unfold Memory.erase
    split
    · exact wfFrom_mono (by omega) (ih hc.2.2.2)
    · exact wfFrom_cons.2 ⟨hc.1, hc.2.1, hc.2.2.1, ih hc.2.2.2⟩

theorem read_erase (m : Memory) (a c : Nat) :
    Memory.read (Memory.erase m a) c = if c = a then Memory.fill else Memory.read m c := by
  induction m with
  | nil => split <;> rfl
  | cons e m ih =>
    obtain ⟨b, u⟩ := e
    unfold Memory.erase
    split
    · rw [ih, read_cons, ‹b = a›]
      split <;> rfl
    · rw [read_cons, read_cons, ih]
      by_cases hcb : c = b
      · rw [if_pos hcb, if_pos hcb, if_neg (by omega)]
      · rw [if_neg hcb, if_neg hcb]

theorem insert_wfFrom {lo : Nat} {m : Memory} (hm : Memory.wfFrom lo m = true) {a : Nat} (hlo : lo ≤ a)
    (ha : a < Config.memSize) {v : Byte} (hv : v ≠ Memory.fill) (hma : Memory.read m a = Memory.fill) :
    Memory.wfFrom lo (Memory.insert m a v) = true := by
  induction m generalizing lo with
  | nil => exact wfFrom_cons.2 ⟨hlo, ha, hv, rfl⟩
  | cons c m ih =>
    obtain ⟨b, u⟩ := c
    have hc := wfFrom_cons.1 hm
    have hab : a ≠ b := by
      rintro rfl
      rw [read_cons, if_pos rfl] at hma
      exact hc.2.2.1 hma
    rw [read_cons, if_neg hab] at hma
    unfold Memory.insert
    split
    · exact wfFrom_cons.2 ⟨hlo, ha, hv, wfFrom_cons.2 ⟨by omega, hc.2⟩⟩
    · exact wfFrom_cons.2 ⟨hc.1, hc.2.1, hc.2.2.1, ih hc.2.2.2 (by omega) hma⟩

theorem read_insert {m : Memory} {a : Nat} (v : Byte) (hma : ∀ u, (a, u) ∉ m) (c : Nat) :
    Memory.read (Memory.insert m a v) c = if c = a then v else Memory.read m c := by
  induction m with
  | nil => rfl
  | cons e m ih =>
    obtain ⟨b, u⟩ := e
    have hab : a ≠ b := by
      rintro rfl
      exact hma u (by simp)
    unfold Memory.insert
    split
    · rfl
    · rw [read_cons, read_cons, ih fun u hu => hma u (by simp [hu])]
      by_cases hcb : c = b
      · rw [if_pos hcb, if_pos hcb, if_neg (by omega)]
      · rw [if_neg hcb, if_neg hcb]

theorem not_mem_erase (m : Memory) (a : Nat) (u : Byte) : (a, u) ∉ Memory.erase m a := by
  induction m with
  | nil => simp [Memory.erase]
  | cons e m ih =>
    obtain ⟨b, w⟩ := e
    unfold Memory.erase
    split
    · exact ih
    · rename_i hb
      intro h
      rcases List.mem_cons.1 h with h | h
      · exact hb (congrArg Prod.fst h).symm
      · exact ih h

/-- A write keeps the canonical form. -/
theorem write_wf {m : Memory} (hm : m.wf = true) (a : Nat) (v : Byte) : Memory.wf (Memory.write m a v) = true := by
  unfold Memory.write
  split
  · split
    · exact erase_wfFrom hm a
    · exact insert_wfFrom (erase_wfFrom hm a) (Nat.zero_le _) ‹_› ‹_› (by rw [read_erase, if_pos rfl])
  · exact hm

/-- A read after a write: the written byte at its address, the old byte anywhere else. -/
theorem read_write (m : Memory) {a : Nat} (ha : a < Config.memSize) (v : Byte) (c : Nat) :
    Memory.read (Memory.write m a v) c = if c = a then v else Memory.read m c := by
  rw [Memory.write, if_pos ha]
  split
  · rw [read_erase, ‹v = Memory.fill›]
  · rw [read_insert v (not_mem_erase m a), read_erase]
    split <;> rfl

theorem writeBlock_wf {m : Memory} (hm : m.wf = true) (a : Nat) (bs : List Byte) :
    Memory.wf (Memory.writeBlock m a bs) = true := by
  induction bs generalizing m a with
  | nil => exact hm
  | cons b bs ih => exact ih (write_wf hm a b) (a + 1)

/-- A read after a block write inside memory: the byte of the block, or the old byte outside it. -/
theorem read_writeBlock (m : Memory) {a : Nat} {bs : List Byte}
    (h : a + bs.length ≤ Config.memSize) (c : Nat) :
    Memory.read (Memory.writeBlock m a bs) c =
      if a ≤ c ∧ c < a + bs.length then bs.getD (c - a) 0 else Memory.read m c := by
  induction bs generalizing m a with
  | nil => rw [if_neg (by simp)]; rfl
  | cons b bs ih =>
    simp only [List.length_cons] at h ⊢
    rw [Memory.writeBlock, ih (Memory.write m a b) (by omega), read_write m (by omega)]
    rcases Nat.lt_trichotomy c a with hlt | heq | hgt
    · rw [if_neg (by omega), if_neg (by omega), if_neg (by omega)]
    · subst heq
      rw [if_neg (by omega), if_pos rfl, if_pos (by omega), Nat.sub_self]; rfl
    · by_cases hin : c < a + (bs.length + 1)
      · rw [if_pos (by omega), if_pos (by omega)]
        obtain ⟨k, rfl⟩ : ∃ k, c = a + 1 + k := ⟨c - (a + 1), by omega⟩
        rw [show a + 1 + k - (a + 1) = k by omega, show a + 1 + k - a = k + 1 by omega]
        rfl
      · rw [if_neg (by omega), if_neg (by omega), if_neg (by omega)]

@[simp] theorem length_readBlock (m : Memory) (a n : Nat) : (Memory.readBlock m a n).length = n := by
  induction n generalizing a with
  | zero => rfl
  | succ n ih => simp [Memory.readBlock, ih]

/-- A block read is the bytes at its addresses, in order. -/
theorem getD_readBlock (m : Memory) (a : Nat) {n k : Nat} (h : k < n) :
    (Memory.readBlock m a n).getD k 0 = Memory.read m (a + k) := by
  induction n generalizing a k with
  | zero => omega
  | succ n ih =>
    cases k with
    | zero => rfl
    | succ k =>
      have := ih (a + 1) (k := k) (by omega)
      rw [show a + 1 + k = a + (k + 1) by omega] at this
      exact this

/-- Two canonical memories that read alike are the same list. -/
theorem ext_wfFrom {lo : Nat} {m m' : Memory} (hm : Memory.wfFrom lo m = true) (hm' : Memory.wfFrom lo m' = true)
    (h : ∀ a, Memory.read m a = Memory.read m' a) : m = m' := by
  induction m generalizing m' lo with
  | nil =>
    cases m' with
    | nil => rfl
    | cons c m' =>
      obtain ⟨b, v⟩ := c
      have hc := wfFrom_cons.1 hm'
      have := h b
      rw [read_cons, if_pos rfl] at this
      exact absurd this.symm hc.2.2.1
  | cons c m ih =>
    obtain ⟨b, v⟩ := c
    have hc := wfFrom_cons.1 hm
    cases m' with
    | nil =>
      have := h b
      rw [read_cons, if_pos rfl] at this
      exact absurd this hc.2.2.1
    | cons c' m' =>
      obtain ⟨b', v'⟩ := c'
      have hc' := wfFrom_cons.1 hm'
      have hb : b = b' := by
        rcases Nat.lt_trichotomy b b' with hlt | heq | hgt
        · have := h b
          rw [read_cons, if_pos rfl, read_cons, if_neg (by omega), read_below hc'.2.2.2 (by omega)] at this
          exact absurd this hc.2.2.1
        · exact heq
        · have := h b'
          rw [read_cons, if_neg (by omega), read_below hc.2.2.2 (by omega), read_cons, if_pos rfl] at this
          exact absurd this.symm hc'.2.2.1
      subst hb
      have hv : v = v' := by
        have := h b
        rwa [read_cons, if_pos rfl, read_cons, if_pos rfl] at this
      subst hv
      congr 1
      refine ih hc.2.2.2 hc'.2.2.2 fun a => ?_
      by_cases ha : a = b
      · subst ha
        rw [read_below hc.2.2.2 (by omega), read_below hc'.2.2.2 (by omega)]
      · have := h a
        rwa [read_cons, if_neg ha, read_cons, if_neg ha] at this

end Sys2Proof.Machine.Memory
end

