-- ==== Sys2Proof/Laws/State.lean ====
section
/-! SUPPORT. One lemma per field per update of the state, each true by rfl, so that no proof unfolds a record update. -/

namespace Sys2Proof.Machine.State

variable (s : State)

/-! ### setReg -/

@[simp] theorem setReg_V (x : RegIdx) (b : Byte) : (s.setReg x b).V = s.V.set x b := rfl
@[simp] theorem setReg_I (x : RegIdx) (b : Byte) : (s.setReg x b).I = s.I := rfl
@[simp] theorem setReg_pc (x : RegIdx) (b : Byte) : (s.setReg x b).pc = s.pc := rfl
@[simp] theorem setReg_sp (x : RegIdx) (b : Byte) : (s.setReg x b).sp = s.sp := rfl
@[simp] theorem setReg_stack (x : RegIdx) (b : Byte) : (s.setReg x b).stack = s.stack := rfl
@[simp] theorem setReg_DT (x : RegIdx) (b : Byte) : (s.setReg x b).DT = s.DT := rfl
@[simp] theorem setReg_ST (x : RegIdx) (b : Byte) : (s.setReg x b).ST = s.ST := rfl
@[simp] theorem setReg_mem (x : RegIdx) (b : Byte) : (s.setReg x b).mem = s.mem := rfl
@[simp] theorem setReg_fb (x : RegIdx) (b : Byte) : (s.setReg x b).fb = s.fb := rfl
@[simp] theorem setReg_key (x : RegIdx) (b : Byte) : (s.setReg x b).key = s.key := rfl
@[simp] theorem setReg_run (x : RegIdx) (b : Byte) : (s.setReg x b).run = s.run := rfl
@[simp] theorem setReg_kx (x : RegIdx) (b : Byte) : (s.setReg x b).kx = s.kx := rfl
@[simp] theorem setReg_faultCause (x : RegIdx) (b : Byte) : (s.setReg x b).faultCause = s.faultCause := rfl
@[simp] theorem setReg_faultInfo (x : RegIdx) (b : Byte) : (s.setReg x b).faultInfo = s.faultInfo := rfl
@[simp] theorem setReg_rng (x : RegIdx) (b : Byte) : (s.setReg x b).rng = s.rng := rfl
@[simp] theorem setReg_fontBase (x : RegIdx) (b : Byte) : (s.setReg x b).fontBase = s.fontBase := rfl

/-! ### setI -/

@[simp] theorem setI_V (a : Word) : (s.setI a).V = s.V := rfl
@[simp] theorem setI_I (a : Word) : (s.setI a).I = a := rfl
@[simp] theorem setI_pc (a : Word) : (s.setI a).pc = s.pc := rfl
@[simp] theorem setI_sp (a : Word) : (s.setI a).sp = s.sp := rfl
@[simp] theorem setI_stack (a : Word) : (s.setI a).stack = s.stack := rfl
@[simp] theorem setI_DT (a : Word) : (s.setI a).DT = s.DT := rfl
@[simp] theorem setI_ST (a : Word) : (s.setI a).ST = s.ST := rfl
@[simp] theorem setI_mem (a : Word) : (s.setI a).mem = s.mem := rfl
@[simp] theorem setI_fb (a : Word) : (s.setI a).fb = s.fb := rfl
@[simp] theorem setI_key (a : Word) : (s.setI a).key = s.key := rfl
@[simp] theorem setI_run (a : Word) : (s.setI a).run = s.run := rfl
@[simp] theorem setI_kx (a : Word) : (s.setI a).kx = s.kx := rfl
@[simp] theorem setI_faultCause (a : Word) : (s.setI a).faultCause = s.faultCause := rfl
@[simp] theorem setI_faultInfo (a : Word) : (s.setI a).faultInfo = s.faultInfo := rfl
@[simp] theorem setI_rng (a : Word) : (s.setI a).rng = s.rng := rfl
@[simp] theorem setI_fontBase (a : Word) : (s.setI a).fontBase = s.fontBase := rfl

/-! ### jump -/

@[simp] theorem jump_V (t : Word) : (s.jump t).V = s.V := rfl
@[simp] theorem jump_I (t : Word) : (s.jump t).I = s.I := rfl
@[simp] theorem jump_pc (t : Word) : (s.jump t).pc = t := rfl
@[simp] theorem jump_sp (t : Word) : (s.jump t).sp = s.sp := rfl
@[simp] theorem jump_stack (t : Word) : (s.jump t).stack = s.stack := rfl
@[simp] theorem jump_DT (t : Word) : (s.jump t).DT = s.DT := rfl
@[simp] theorem jump_ST (t : Word) : (s.jump t).ST = s.ST := rfl
@[simp] theorem jump_mem (t : Word) : (s.jump t).mem = s.mem := rfl
@[simp] theorem jump_fb (t : Word) : (s.jump t).fb = s.fb := rfl
@[simp] theorem jump_key (t : Word) : (s.jump t).key = s.key := rfl
@[simp] theorem jump_run (t : Word) : (s.jump t).run = s.run := rfl
@[simp] theorem jump_kx (t : Word) : (s.jump t).kx = s.kx := rfl
@[simp] theorem jump_faultCause (t : Word) : (s.jump t).faultCause = s.faultCause := rfl
@[simp] theorem jump_faultInfo (t : Word) : (s.jump t).faultInfo = s.faultInfo := rfl
@[simp] theorem jump_rng (t : Word) : (s.jump t).rng = s.rng := rfl
@[simp] theorem jump_fontBase (t : Word) : (s.jump t).fontBase = s.fontBase := rfl

/-! ### advance -/

@[simp] theorem advance_V : (s.advance).V = s.V := rfl
@[simp] theorem advance_I : (s.advance).I = s.I := rfl
@[simp] theorem advance_pc : (s.advance).pc = s.pc + 2 := rfl
@[simp] theorem advance_sp : (s.advance).sp = s.sp := rfl
@[simp] theorem advance_stack : (s.advance).stack = s.stack := rfl
@[simp] theorem advance_DT : (s.advance).DT = s.DT := rfl
@[simp] theorem advance_ST : (s.advance).ST = s.ST := rfl
@[simp] theorem advance_mem : (s.advance).mem = s.mem := rfl
@[simp] theorem advance_fb : (s.advance).fb = s.fb := rfl
@[simp] theorem advance_key : (s.advance).key = s.key := rfl
@[simp] theorem advance_run : (s.advance).run = s.run := rfl
@[simp] theorem advance_kx : (s.advance).kx = s.kx := rfl
@[simp] theorem advance_faultCause : (s.advance).faultCause = s.faultCause := rfl
@[simp] theorem advance_faultInfo : (s.advance).faultInfo = s.faultInfo := rfl
@[simp] theorem advance_rng : (s.advance).rng = s.rng := rfl
@[simp] theorem advance_fontBase : (s.advance).fontBase = s.fontBase := rfl

/-! ### push -/

@[simp] theorem push_V (v : Word) : (s.push v).V = s.V := rfl
@[simp] theorem push_I (v : Word) : (s.push v).I = s.I := rfl
@[simp] theorem push_pc (v : Word) : (s.push v).pc = s.pc := rfl
@[simp] theorem push_sp (v : Word) : (s.push v).sp = s.sp - 1 := rfl
@[simp] theorem push_stack (v : Word) : (s.push v).stack = s.stack.set (s.sp - 1) v := rfl
@[simp] theorem push_DT (v : Word) : (s.push v).DT = s.DT := rfl
@[simp] theorem push_ST (v : Word) : (s.push v).ST = s.ST := rfl
@[simp] theorem push_mem (v : Word) : (s.push v).mem = s.mem := rfl
@[simp] theorem push_fb (v : Word) : (s.push v).fb = s.fb := rfl
@[simp] theorem push_key (v : Word) : (s.push v).key = s.key := rfl
@[simp] theorem push_run (v : Word) : (s.push v).run = s.run := rfl
@[simp] theorem push_kx (v : Word) : (s.push v).kx = s.kx := rfl
@[simp] theorem push_faultCause (v : Word) : (s.push v).faultCause = s.faultCause := rfl
@[simp] theorem push_faultInfo (v : Word) : (s.push v).faultInfo = s.faultInfo := rfl
@[simp] theorem push_rng (v : Word) : (s.push v).rng = s.rng := rfl
@[simp] theorem push_fontBase (v : Word) : (s.push v).fontBase = s.fontBase := rfl

/-! ### pop -/

@[simp] theorem pop_V : (s.pop).V = s.V := rfl
@[simp] theorem pop_I : (s.pop).I = s.I := rfl
@[simp] theorem pop_pc : (s.pop).pc = s.pc := rfl
@[simp] theorem pop_sp : (s.pop).sp = s.sp + 1 := rfl
@[simp] theorem pop_stack : (s.pop).stack = s.stack.set s.sp 0 := rfl
@[simp] theorem pop_DT : (s.pop).DT = s.DT := rfl
@[simp] theorem pop_ST : (s.pop).ST = s.ST := rfl
@[simp] theorem pop_mem : (s.pop).mem = s.mem := rfl
@[simp] theorem pop_fb : (s.pop).fb = s.fb := rfl
@[simp] theorem pop_key : (s.pop).key = s.key := rfl
@[simp] theorem pop_run : (s.pop).run = s.run := rfl
@[simp] theorem pop_kx : (s.pop).kx = s.kx := rfl
@[simp] theorem pop_faultCause : (s.pop).faultCause = s.faultCause := rfl
@[simp] theorem pop_faultInfo : (s.pop).faultInfo = s.faultInfo := rfl
@[simp] theorem pop_rng : (s.pop).rng = s.rng := rfl
@[simp] theorem pop_fontBase : (s.pop).fontBase = s.fontBase := rfl

/-! ### writeBytes -/

@[simp] theorem writeBytes_V (a : Nat) (bs : List Byte) : (s.writeBytes a bs).V = s.V := rfl
@[simp] theorem writeBytes_I (a : Nat) (bs : List Byte) : (s.writeBytes a bs).I = s.I := rfl
@[simp] theorem writeBytes_pc (a : Nat) (bs : List Byte) : (s.writeBytes a bs).pc = s.pc := rfl
@[simp] theorem writeBytes_sp (a : Nat) (bs : List Byte) : (s.writeBytes a bs).sp = s.sp := rfl
@[simp] theorem writeBytes_stack (a : Nat) (bs : List Byte) : (s.writeBytes a bs).stack = s.stack := rfl
@[simp] theorem writeBytes_DT (a : Nat) (bs : List Byte) : (s.writeBytes a bs).DT = s.DT := rfl
@[simp] theorem writeBytes_ST (a : Nat) (bs : List Byte) : (s.writeBytes a bs).ST = s.ST := rfl
@[simp] theorem writeBytes_mem (a : Nat) (bs : List Byte) : (s.writeBytes a bs).mem = s.mem.writeBlock a bs := rfl
@[simp] theorem writeBytes_fb (a : Nat) (bs : List Byte) : (s.writeBytes a bs).fb = s.fb := rfl
@[simp] theorem writeBytes_key (a : Nat) (bs : List Byte) : (s.writeBytes a bs).key = s.key := rfl
@[simp] theorem writeBytes_run (a : Nat) (bs : List Byte) : (s.writeBytes a bs).run = s.run := rfl
@[simp] theorem writeBytes_kx (a : Nat) (bs : List Byte) : (s.writeBytes a bs).kx = s.kx := rfl
@[simp] theorem writeBytes_faultCause (a : Nat) (bs : List Byte) : (s.writeBytes a bs).faultCause = s.faultCause := rfl
@[simp] theorem writeBytes_faultInfo (a : Nat) (bs : List Byte) : (s.writeBytes a bs).faultInfo = s.faultInfo := rfl
@[simp] theorem writeBytes_rng (a : Nat) (bs : List Byte) : (s.writeBytes a bs).rng = s.rng := rfl
@[simp] theorem writeBytes_fontBase (a : Nat) (bs : List Byte) : (s.writeBytes a bs).fontBase = s.fontBase := rfl

/-! ### setFb -/

@[simp] theorem setFb_V (fb : Framebuffer) : (s.setFb fb).V = s.V := rfl
@[simp] theorem setFb_I (fb : Framebuffer) : (s.setFb fb).I = s.I := rfl
@[simp] theorem setFb_pc (fb : Framebuffer) : (s.setFb fb).pc = s.pc := rfl
@[simp] theorem setFb_sp (fb : Framebuffer) : (s.setFb fb).sp = s.sp := rfl
@[simp] theorem setFb_stack (fb : Framebuffer) : (s.setFb fb).stack = s.stack := rfl
@[simp] theorem setFb_DT (fb : Framebuffer) : (s.setFb fb).DT = s.DT := rfl
@[simp] theorem setFb_ST (fb : Framebuffer) : (s.setFb fb).ST = s.ST := rfl
@[simp] theorem setFb_mem (fb : Framebuffer) : (s.setFb fb).mem = s.mem := rfl
@[simp] theorem setFb_fb (fb : Framebuffer) : (s.setFb fb).fb = fb := rfl
@[simp] theorem setFb_key (fb : Framebuffer) : (s.setFb fb).key = s.key := rfl
@[simp] theorem setFb_run (fb : Framebuffer) : (s.setFb fb).run = s.run := rfl
@[simp] theorem setFb_kx (fb : Framebuffer) : (s.setFb fb).kx = s.kx := rfl
@[simp] theorem setFb_faultCause (fb : Framebuffer) : (s.setFb fb).faultCause = s.faultCause := rfl
@[simp] theorem setFb_faultInfo (fb : Framebuffer) : (s.setFb fb).faultInfo = s.faultInfo := rfl
@[simp] theorem setFb_rng (fb : Framebuffer) : (s.setFb fb).rng = s.rng := rfl
@[simp] theorem setFb_fontBase (fb : Framebuffer) : (s.setFb fb).fontBase = s.fontBase := rfl

/-! ### setDT -/

@[simp] theorem setDT_V (b : Byte) : (s.setDT b).V = s.V := rfl
@[simp] theorem setDT_I (b : Byte) : (s.setDT b).I = s.I := rfl
@[simp] theorem setDT_pc (b : Byte) : (s.setDT b).pc = s.pc := rfl
@[simp] theorem setDT_sp (b : Byte) : (s.setDT b).sp = s.sp := rfl
@[simp] theorem setDT_stack (b : Byte) : (s.setDT b).stack = s.stack := rfl
@[simp] theorem setDT_DT (b : Byte) : (s.setDT b).DT = b := rfl
@[simp] theorem setDT_ST (b : Byte) : (s.setDT b).ST = s.ST := rfl
@[simp] theorem setDT_mem (b : Byte) : (s.setDT b).mem = s.mem := rfl
@[simp] theorem setDT_fb (b : Byte) : (s.setDT b).fb = s.fb := rfl
@[simp] theorem setDT_key (b : Byte) : (s.setDT b).key = s.key := rfl
@[simp] theorem setDT_run (b : Byte) : (s.setDT b).run = s.run := rfl
@[simp] theorem setDT_kx (b : Byte) : (s.setDT b).kx = s.kx := rfl
@[simp] theorem setDT_faultCause (b : Byte) : (s.setDT b).faultCause = s.faultCause := rfl
@[simp] theorem setDT_faultInfo (b : Byte) : (s.setDT b).faultInfo = s.faultInfo := rfl
@[simp] theorem setDT_rng (b : Byte) : (s.setDT b).rng = s.rng := rfl
@[simp] theorem setDT_fontBase (b : Byte) : (s.setDT b).fontBase = s.fontBase := rfl

/-! ### setST -/

@[simp] theorem setST_V (b : Byte) : (s.setST b).V = s.V := rfl
@[simp] theorem setST_I (b : Byte) : (s.setST b).I = s.I := rfl
@[simp] theorem setST_pc (b : Byte) : (s.setST b).pc = s.pc := rfl
@[simp] theorem setST_sp (b : Byte) : (s.setST b).sp = s.sp := rfl
@[simp] theorem setST_stack (b : Byte) : (s.setST b).stack = s.stack := rfl
@[simp] theorem setST_DT (b : Byte) : (s.setST b).DT = s.DT := rfl
@[simp] theorem setST_ST (b : Byte) : (s.setST b).ST = b := rfl
@[simp] theorem setST_mem (b : Byte) : (s.setST b).mem = s.mem := rfl
@[simp] theorem setST_fb (b : Byte) : (s.setST b).fb = s.fb := rfl
@[simp] theorem setST_key (b : Byte) : (s.setST b).key = s.key := rfl
@[simp] theorem setST_run (b : Byte) : (s.setST b).run = s.run := rfl
@[simp] theorem setST_kx (b : Byte) : (s.setST b).kx = s.kx := rfl
@[simp] theorem setST_faultCause (b : Byte) : (s.setST b).faultCause = s.faultCause := rfl
@[simp] theorem setST_faultInfo (b : Byte) : (s.setST b).faultInfo = s.faultInfo := rfl
@[simp] theorem setST_rng (b : Byte) : (s.setST b).rng = s.rng := rfl
@[simp] theorem setST_fontBase (b : Byte) : (s.setST b).fontBase = s.fontBase := rfl

/-! ### setKey -/

@[simp] theorem setKey_V (k : KeyIdx) (c : Bool) : (s.setKey k c).V = s.V := rfl
@[simp] theorem setKey_I (k : KeyIdx) (c : Bool) : (s.setKey k c).I = s.I := rfl
@[simp] theorem setKey_pc (k : KeyIdx) (c : Bool) : (s.setKey k c).pc = s.pc := rfl
@[simp] theorem setKey_sp (k : KeyIdx) (c : Bool) : (s.setKey k c).sp = s.sp := rfl
@[simp] theorem setKey_stack (k : KeyIdx) (c : Bool) : (s.setKey k c).stack = s.stack := rfl
@[simp] theorem setKey_DT (k : KeyIdx) (c : Bool) : (s.setKey k c).DT = s.DT := rfl
@[simp] theorem setKey_ST (k : KeyIdx) (c : Bool) : (s.setKey k c).ST = s.ST := rfl
@[simp] theorem setKey_mem (k : KeyIdx) (c : Bool) : (s.setKey k c).mem = s.mem := rfl
@[simp] theorem setKey_fb (k : KeyIdx) (c : Bool) : (s.setKey k c).fb = s.fb := rfl
@[simp] theorem setKey_key (k : KeyIdx) (c : Bool) : (s.setKey k c).key = s.key.set k c := rfl
@[simp] theorem setKey_run (k : KeyIdx) (c : Bool) : (s.setKey k c).run = s.run := rfl
@[simp] theorem setKey_kx (k : KeyIdx) (c : Bool) : (s.setKey k c).kx = s.kx := rfl
@[simp] theorem setKey_faultCause (k : KeyIdx) (c : Bool) : (s.setKey k c).faultCause = s.faultCause := rfl
@[simp] theorem setKey_faultInfo (k : KeyIdx) (c : Bool) : (s.setKey k c).faultInfo = s.faultInfo := rfl
@[simp] theorem setKey_rng (k : KeyIdx) (c : Bool) : (s.setKey k c).rng = s.rng := rfl
@[simp] theorem setKey_fontBase (k : KeyIdx) (c : Bool) : (s.setKey k c).fontBase = s.fontBase := rfl

/-! ### advanceRng -/

@[simp] theorem advanceRng_V : (s.advanceRng).V = s.V := rfl
@[simp] theorem advanceRng_I : (s.advanceRng).I = s.I := rfl
@[simp] theorem advanceRng_pc : (s.advanceRng).pc = s.pc := rfl
@[simp] theorem advanceRng_sp : (s.advanceRng).sp = s.sp := rfl
@[simp] theorem advanceRng_stack : (s.advanceRng).stack = s.stack := rfl
@[simp] theorem advanceRng_DT : (s.advanceRng).DT = s.DT := rfl
@[simp] theorem advanceRng_ST : (s.advanceRng).ST = s.ST := rfl
@[simp] theorem advanceRng_mem : (s.advanceRng).mem = s.mem := rfl
@[simp] theorem advanceRng_fb : (s.advanceRng).fb = s.fb := rfl
@[simp] theorem advanceRng_key : (s.advanceRng).key = s.key := rfl
@[simp] theorem advanceRng_run : (s.advanceRng).run = s.run := rfl
@[simp] theorem advanceRng_kx : (s.advanceRng).kx = s.kx := rfl
@[simp] theorem advanceRng_faultCause : (s.advanceRng).faultCause = s.faultCause := rfl
@[simp] theorem advanceRng_faultInfo : (s.advanceRng).faultInfo = s.faultInfo := rfl
@[simp] theorem advanceRng_rng : (s.advanceRng).rng = { s.rng with draws := s.rng.draws + 1 } := rfl
@[simp] theorem advanceRng_fontBase : (s.advanceRng).fontBase = s.fontBase := rfl

/-! ### awaitKey -/

@[simp] theorem awaitKey_V (x : RegIdx) : (s.awaitKey x).V = s.V := rfl
@[simp] theorem awaitKey_I (x : RegIdx) : (s.awaitKey x).I = s.I := rfl
@[simp] theorem awaitKey_pc (x : RegIdx) : (s.awaitKey x).pc = s.pc := rfl
@[simp] theorem awaitKey_sp (x : RegIdx) : (s.awaitKey x).sp = s.sp := rfl
@[simp] theorem awaitKey_stack (x : RegIdx) : (s.awaitKey x).stack = s.stack := rfl
@[simp] theorem awaitKey_DT (x : RegIdx) : (s.awaitKey x).DT = s.DT := rfl
@[simp] theorem awaitKey_ST (x : RegIdx) : (s.awaitKey x).ST = s.ST := rfl
@[simp] theorem awaitKey_mem (x : RegIdx) : (s.awaitKey x).mem = s.mem := rfl
@[simp] theorem awaitKey_fb (x : RegIdx) : (s.awaitKey x).fb = s.fb := rfl
@[simp] theorem awaitKey_key (x : RegIdx) : (s.awaitKey x).key = s.key := rfl
@[simp] theorem awaitKey_run (x : RegIdx) : (s.awaitKey x).run = .awaitingKey := rfl
@[simp] theorem awaitKey_kx (x : RegIdx) : (s.awaitKey x).kx = x := rfl
@[simp] theorem awaitKey_faultCause (x : RegIdx) : (s.awaitKey x).faultCause = s.faultCause := rfl
@[simp] theorem awaitKey_faultInfo (x : RegIdx) : (s.awaitKey x).faultInfo = s.faultInfo := rfl
@[simp] theorem awaitKey_rng (x : RegIdx) : (s.awaitKey x).rng = s.rng := rfl
@[simp] theorem awaitKey_fontBase (x : RegIdx) : (s.awaitKey x).fontBase = s.fontBase := rfl

/-! ### endWait -/

@[simp] theorem endWait_V : (s.endWait).V = s.V := rfl
@[simp] theorem endWait_I : (s.endWait).I = s.I := rfl
@[simp] theorem endWait_pc : (s.endWait).pc = s.pc := rfl
@[simp] theorem endWait_sp : (s.endWait).sp = s.sp := rfl
@[simp] theorem endWait_stack : (s.endWait).stack = s.stack := rfl
@[simp] theorem endWait_DT : (s.endWait).DT = s.DT := rfl
@[simp] theorem endWait_ST : (s.endWait).ST = s.ST := rfl
@[simp] theorem endWait_mem : (s.endWait).mem = s.mem := rfl
@[simp] theorem endWait_fb : (s.endWait).fb = s.fb := rfl
@[simp] theorem endWait_key : (s.endWait).key = s.key := rfl
@[simp] theorem endWait_run : (s.endWait).run = .running := rfl
@[simp] theorem endWait_kx : (s.endWait).kx = 0 := rfl
@[simp] theorem endWait_faultCause : (s.endWait).faultCause = s.faultCause := rfl
@[simp] theorem endWait_faultInfo : (s.endWait).faultInfo = s.faultInfo := rfl
@[simp] theorem endWait_rng : (s.endWait).rng = s.rng := rfl
@[simp] theorem endWait_fontBase : (s.endWait).fontBase = s.fontBase := rfl

/-! ### raise -/

@[simp] theorem raise_V (t : Trap) : (s.raise t).V = s.V := rfl
@[simp] theorem raise_I (t : Trap) : (s.raise t).I = s.I := rfl
@[simp] theorem raise_pc (t : Trap) : (s.raise t).pc = s.pc := rfl
@[simp] theorem raise_sp (t : Trap) : (s.raise t).sp = s.sp := rfl
@[simp] theorem raise_stack (t : Trap) : (s.raise t).stack = s.stack := rfl
@[simp] theorem raise_DT (t : Trap) : (s.raise t).DT = s.DT := rfl
@[simp] theorem raise_ST (t : Trap) : (s.raise t).ST = s.ST := rfl
@[simp] theorem raise_mem (t : Trap) : (s.raise t).mem = s.mem := rfl
@[simp] theorem raise_fb (t : Trap) : (s.raise t).fb = s.fb := rfl
@[simp] theorem raise_key (t : Trap) : (s.raise t).key = s.key := rfl
@[simp] theorem raise_run (t : Trap) : (s.raise t).run = .halted := rfl
@[simp] theorem raise_kx (t : Trap) : (s.raise t).kx = s.kx := rfl
@[simp] theorem raise_faultCause (t : Trap) : (s.raise t).faultCause = t.cause := rfl
@[simp] theorem raise_faultInfo (t : Trap) : (s.raise t).faultInfo = t.info := rfl
@[simp] theorem raise_rng (t : Trap) : (s.raise t).rng = s.rng := rfl
@[simp] theorem raise_fontBase (t : Trap) : (s.raise t).fontBase = s.fontBase := rfl

/-! ### setRegsFrom0 -/

@[simp] theorem setRegsFrom0_V (bs : List Byte) : (s.setRegsFrom0 bs).V = loadFrom s.V 0 bs := rfl
@[simp] theorem setRegsFrom0_I (bs : List Byte) : (s.setRegsFrom0 bs).I = s.I := rfl
@[simp] theorem setRegsFrom0_pc (bs : List Byte) : (s.setRegsFrom0 bs).pc = s.pc := rfl
@[simp] theorem setRegsFrom0_sp (bs : List Byte) : (s.setRegsFrom0 bs).sp = s.sp := rfl
@[simp] theorem setRegsFrom0_stack (bs : List Byte) : (s.setRegsFrom0 bs).stack = s.stack := rfl
@[simp] theorem setRegsFrom0_DT (bs : List Byte) : (s.setRegsFrom0 bs).DT = s.DT := rfl
@[simp] theorem setRegsFrom0_ST (bs : List Byte) : (s.setRegsFrom0 bs).ST = s.ST := rfl
@[simp] theorem setRegsFrom0_mem (bs : List Byte) : (s.setRegsFrom0 bs).mem = s.mem := rfl
@[simp] theorem setRegsFrom0_fb (bs : List Byte) : (s.setRegsFrom0 bs).fb = s.fb := rfl
@[simp] theorem setRegsFrom0_key (bs : List Byte) : (s.setRegsFrom0 bs).key = s.key := rfl
@[simp] theorem setRegsFrom0_run (bs : List Byte) : (s.setRegsFrom0 bs).run = s.run := rfl
@[simp] theorem setRegsFrom0_kx (bs : List Byte) : (s.setRegsFrom0 bs).kx = s.kx := rfl
@[simp] theorem setRegsFrom0_faultCause (bs : List Byte) : (s.setRegsFrom0 bs).faultCause = s.faultCause := rfl
@[simp] theorem setRegsFrom0_faultInfo (bs : List Byte) : (s.setRegsFrom0 bs).faultInfo = s.faultInfo := rfl
@[simp] theorem setRegsFrom0_rng (bs : List Byte) : (s.setRegsFrom0 bs).rng = s.rng := rfl
@[simp] theorem setRegsFrom0_fontBase (bs : List Byte) : (s.setRegsFrom0 bs).fontBase = s.fontBase := rfl

/-! ### setFlagThenReg -/

@[simp] theorem setFlagThenReg_V (x : RegIdx) (c : Bool) (b : Byte) : (s.setFlagThenReg x c b).V = (s.V.set vf (flagByte c)).set x b := rfl
@[simp] theorem setFlagThenReg_I (x : RegIdx) (c : Bool) (b : Byte) : (s.setFlagThenReg x c b).I = s.I := rfl
@[simp] theorem setFlagThenReg_pc (x : RegIdx) (c : Bool) (b : Byte) : (s.setFlagThenReg x c b).pc = s.pc := rfl
@[simp] theorem setFlagThenReg_sp (x : RegIdx) (c : Bool) (b : Byte) : (s.setFlagThenReg x c b).sp = s.sp := rfl
@[simp] theorem setFlagThenReg_stack (x : RegIdx) (c : Bool) (b : Byte) : (s.setFlagThenReg x c b).stack = s.stack := rfl
@[simp] theorem setFlagThenReg_DT (x : RegIdx) (c : Bool) (b : Byte) : (s.setFlagThenReg x c b).DT = s.DT := rfl
@[simp] theorem setFlagThenReg_ST (x : RegIdx) (c : Bool) (b : Byte) : (s.setFlagThenReg x c b).ST = s.ST := rfl
@[simp] theorem setFlagThenReg_mem (x : RegIdx) (c : Bool) (b : Byte) : (s.setFlagThenReg x c b).mem = s.mem := rfl
@[simp] theorem setFlagThenReg_fb (x : RegIdx) (c : Bool) (b : Byte) : (s.setFlagThenReg x c b).fb = s.fb := rfl
@[simp] theorem setFlagThenReg_key (x : RegIdx) (c : Bool) (b : Byte) : (s.setFlagThenReg x c b).key = s.key := rfl
@[simp] theorem setFlagThenReg_run (x : RegIdx) (c : Bool) (b : Byte) : (s.setFlagThenReg x c b).run = s.run := rfl
@[simp] theorem setFlagThenReg_kx (x : RegIdx) (c : Bool) (b : Byte) : (s.setFlagThenReg x c b).kx = s.kx := rfl
@[simp] theorem setFlagThenReg_faultCause (x : RegIdx) (c : Bool) (b : Byte) : (s.setFlagThenReg x c b).faultCause = s.faultCause := rfl
@[simp] theorem setFlagThenReg_faultInfo (x : RegIdx) (c : Bool) (b : Byte) : (s.setFlagThenReg x c b).faultInfo = s.faultInfo := rfl
@[simp] theorem setFlagThenReg_rng (x : RegIdx) (c : Bool) (b : Byte) : (s.setFlagThenReg x c b).rng = s.rng := rfl
@[simp] theorem setFlagThenReg_fontBase (x : RegIdx) (c : Bool) (b : Byte) : (s.setFlagThenReg x c b).fontBase = s.fontBase := rfl

/-! ### accessors after setReg -/

@[simp] theorem readByte_setReg (x : RegIdx) (b : Byte) (p : Nat) :
    (s.setReg x b).readByte p = s.readByte p := rfl
@[simp] theorem pixel_setReg (x : RegIdx) (b : Byte) (row : Fin Config.displayHeight) (col : Fin Config.displayWidth) :
    (s.setReg x b).pixel row col = s.pixel row col := rfl
@[simp] theorem keyDown?_setReg (x : RegIdx) (b : Byte) (j : KeyIdx) :
    (s.setReg x b).keyDown? j = s.keyDown? j := rfl
@[simp] theorem slot_setReg (x : RegIdx) (b : Byte) (j : Nat) :
    (s.setReg x b).slot j = s.slot j := rfl
@[simp] theorem stackCapacity_setReg (x : RegIdx) (b : Byte) :
    (s.setReg x b).stackCapacity = s.stackCapacity := rfl

/-! ### accessors after setI -/

@[simp] theorem reg_setI (a : Word) (r : RegIdx) :
    (s.setI a).reg r = s.reg r := rfl
@[simp] theorem readByte_setI (a : Word) (p : Nat) :
    (s.setI a).readByte p = s.readByte p := rfl
@[simp] theorem pixel_setI (a : Word) (row : Fin Config.displayHeight) (col : Fin Config.displayWidth) :
    (s.setI a).pixel row col = s.pixel row col := rfl
@[simp] theorem keyDown?_setI (a : Word) (j : KeyIdx) :
    (s.setI a).keyDown? j = s.keyDown? j := rfl
@[simp] theorem slot_setI (a : Word) (j : Nat) :
    (s.setI a).slot j = s.slot j := rfl
@[simp] theorem stackCapacity_setI (a : Word) :
    (s.setI a).stackCapacity = s.stackCapacity := rfl

/-! ### accessors after jump -/

@[simp] theorem reg_jump (t : Word) (r : RegIdx) :
    (s.jump t).reg r = s.reg r := rfl
@[simp] theorem readByte_jump (t : Word) (p : Nat) :
    (s.jump t).readByte p = s.readByte p := rfl
@[simp] theorem pixel_jump (t : Word) (row : Fin Config.displayHeight) (col : Fin Config.displayWidth) :
    (s.jump t).pixel row col = s.pixel row col := rfl
@[simp] theorem keyDown?_jump (t : Word) (j : KeyIdx) :
    (s.jump t).keyDown? j = s.keyDown? j := rfl
@[simp] theorem slot_jump (t : Word) (j : Nat) :
    (s.jump t).slot j = s.slot j := rfl
@[simp] theorem stackCapacity_jump (t : Word) :
    (s.jump t).stackCapacity = s.stackCapacity := rfl

/-! ### accessors after advance -/

@[simp] theorem reg_advance (r : RegIdx) :
    (s.advance).reg r = s.reg r := rfl
@[simp] theorem readByte_advance (p : Nat) :
    (s.advance).readByte p = s.readByte p := rfl
@[simp] theorem pixel_advance (row : Fin Config.displayHeight) (col : Fin Config.displayWidth) :
    (s.advance).pixel row col = s.pixel row col := rfl
@[simp] theorem keyDown?_advance (j : KeyIdx) :
    (s.advance).keyDown? j = s.keyDown? j := rfl
@[simp] theorem slot_advance (j : Nat) :
    (s.advance).slot j = s.slot j := rfl
@[simp] theorem stackCapacity_advance :
    (s.advance).stackCapacity = s.stackCapacity := rfl

/-! ### accessors after push -/

@[simp] theorem reg_push (v : Word) (r : RegIdx) :
    (s.push v).reg r = s.reg r := rfl
@[simp] theorem readByte_push (v : Word) (p : Nat) :
    (s.push v).readByte p = s.readByte p := rfl
@[simp] theorem pixel_push (v : Word) (row : Fin Config.displayHeight) (col : Fin Config.displayWidth) :
    (s.push v).pixel row col = s.pixel row col := rfl
@[simp] theorem keyDown?_push (v : Word) (j : KeyIdx) :
    (s.push v).keyDown? j = s.keyDown? j := rfl

/-! ### accessors after pop -/

@[simp] theorem reg_pop (r : RegIdx) :
    (s.pop).reg r = s.reg r := rfl
@[simp] theorem readByte_pop (p : Nat) :
    (s.pop).readByte p = s.readByte p := rfl
@[simp] theorem pixel_pop (row : Fin Config.displayHeight) (col : Fin Config.displayWidth) :
    (s.pop).pixel row col = s.pixel row col := rfl
@[simp] theorem keyDown?_pop (j : KeyIdx) :
    (s.pop).keyDown? j = s.keyDown? j := rfl

/-! ### accessors after writeBytes -/

@[simp] theorem reg_writeBytes (a : Nat) (bs : List Byte) (r : RegIdx) :
    (s.writeBytes a bs).reg r = s.reg r := rfl
@[simp] theorem pixel_writeBytes (a : Nat) (bs : List Byte) (row : Fin Config.displayHeight) (col : Fin Config.displayWidth) :
    (s.writeBytes a bs).pixel row col = s.pixel row col := rfl
@[simp] theorem keyDown?_writeBytes (a : Nat) (bs : List Byte) (j : KeyIdx) :
    (s.writeBytes a bs).keyDown? j = s.keyDown? j := rfl
@[simp] theorem slot_writeBytes (a : Nat) (bs : List Byte) (j : Nat) :
    (s.writeBytes a bs).slot j = s.slot j := rfl
@[simp] theorem stackCapacity_writeBytes (a : Nat) (bs : List Byte) :
    (s.writeBytes a bs).stackCapacity = s.stackCapacity := rfl

/-! ### accessors after setFb -/

@[simp] theorem reg_setFb (fb : Framebuffer) (r : RegIdx) :
    (s.setFb fb).reg r = s.reg r := rfl
@[simp] theorem readByte_setFb (fb : Framebuffer) (p : Nat) :
    (s.setFb fb).readByte p = s.readByte p := rfl
@[simp] theorem keyDown?_setFb (fb : Framebuffer) (j : KeyIdx) :
    (s.setFb fb).keyDown? j = s.keyDown? j := rfl
@[simp] theorem slot_setFb (fb : Framebuffer) (j : Nat) :
    (s.setFb fb).slot j = s.slot j := rfl
@[simp] theorem stackCapacity_setFb (fb : Framebuffer) :
    (s.setFb fb).stackCapacity = s.stackCapacity := rfl

/-! ### accessors after setDT -/

@[simp] theorem reg_setDT (b : Byte) (r : RegIdx) :
    (s.setDT b).reg r = s.reg r := rfl
@[simp] theorem readByte_setDT (b : Byte) (p : Nat) :
    (s.setDT b).readByte p = s.readByte p := rfl
@[simp] theorem pixel_setDT (b : Byte) (row : Fin Config.displayHeight) (col : Fin Config.displayWidth) :
    (s.setDT b).pixel row col = s.pixel row col := rfl
@[simp] theorem keyDown?_setDT (b : Byte) (j : KeyIdx) :
    (s.setDT b).keyDown? j = s.keyDown? j := rfl
@[simp] theorem slot_setDT (b : Byte) (j : Nat) :
    (s.setDT b).slot j = s.slot j := rfl
@[simp] theorem stackCapacity_setDT (b : Byte) :
    (s.setDT b).stackCapacity = s.stackCapacity := rfl

/-! ### accessors after setST -/

@[simp] theorem reg_setST (b : Byte) (r : RegIdx) :
    (s.setST b).reg r = s.reg r := rfl
@[simp] theorem readByte_setST (b : Byte) (p : Nat) :
    (s.setST b).readByte p = s.readByte p := rfl
@[simp] theorem pixel_setST (b : Byte) (row : Fin Config.displayHeight) (col : Fin Config.displayWidth) :
    (s.setST b).pixel row col = s.pixel row col := rfl
@[simp] theorem keyDown?_setST (b : Byte) (j : KeyIdx) :
    (s.setST b).keyDown? j = s.keyDown? j := rfl
@[simp] theorem slot_setST (b : Byte) (j : Nat) :
    (s.setST b).slot j = s.slot j := rfl
@[simp] theorem stackCapacity_setST (b : Byte) :
    (s.setST b).stackCapacity = s.stackCapacity := rfl

/-! ### accessors after setKey -/

@[simp] theorem reg_setKey (k : KeyIdx) (c : Bool) (r : RegIdx) :
    (s.setKey k c).reg r = s.reg r := rfl
@[simp] theorem readByte_setKey (k : KeyIdx) (c : Bool) (p : Nat) :
    (s.setKey k c).readByte p = s.readByte p := rfl
@[simp] theorem pixel_setKey (k : KeyIdx) (c : Bool) (row : Fin Config.displayHeight) (col : Fin Config.displayWidth) :
    (s.setKey k c).pixel row col = s.pixel row col := rfl
@[simp] theorem slot_setKey (k : KeyIdx) (c : Bool) (j : Nat) :
    (s.setKey k c).slot j = s.slot j := rfl
@[simp] theorem stackCapacity_setKey (k : KeyIdx) (c : Bool) :
    (s.setKey k c).stackCapacity = s.stackCapacity := rfl

/-! ### accessors after advanceRng -/

@[simp] theorem reg_advanceRng (r : RegIdx) :
    (s.advanceRng).reg r = s.reg r := rfl
@[simp] theorem readByte_advanceRng (p : Nat) :
    (s.advanceRng).readByte p = s.readByte p := rfl
@[simp] theorem pixel_advanceRng (row : Fin Config.displayHeight) (col : Fin Config.displayWidth) :
    (s.advanceRng).pixel row col = s.pixel row col := rfl
@[simp] theorem keyDown?_advanceRng (j : KeyIdx) :
    (s.advanceRng).keyDown? j = s.keyDown? j := rfl
@[simp] theorem slot_advanceRng (j : Nat) :
    (s.advanceRng).slot j = s.slot j := rfl
@[simp] theorem stackCapacity_advanceRng :
    (s.advanceRng).stackCapacity = s.stackCapacity := rfl

/-! ### accessors after awaitKey -/

@[simp] theorem reg_awaitKey (x : RegIdx) (r : RegIdx) :
    (s.awaitKey x).reg r = s.reg r := rfl
@[simp] theorem readByte_awaitKey (x : RegIdx) (p : Nat) :
    (s.awaitKey x).readByte p = s.readByte p := rfl
@[simp] theorem pixel_awaitKey (x : RegIdx) (row : Fin Config.displayHeight) (col : Fin Config.displayWidth) :
    (s.awaitKey x).pixel row col = s.pixel row col := rfl
@[simp] theorem keyDown?_awaitKey (x : RegIdx) (j : KeyIdx) :
    (s.awaitKey x).keyDown? j = s.keyDown? j := rfl
@[simp] theorem slot_awaitKey (x : RegIdx) (j : Nat) :
    (s.awaitKey x).slot j = s.slot j := rfl
@[simp] theorem stackCapacity_awaitKey (x : RegIdx) :
    (s.awaitKey x).stackCapacity = s.stackCapacity := rfl

/-! ### accessors after endWait -/

@[simp] theorem reg_endWait (r : RegIdx) :
    (s.endWait).reg r = s.reg r := rfl
@[simp] theorem readByte_endWait (p : Nat) :
    (s.endWait).readByte p = s.readByte p := rfl
@[simp] theorem pixel_endWait (row : Fin Config.displayHeight) (col : Fin Config.displayWidth) :
    (s.endWait).pixel row col = s.pixel row col := rfl
@[simp] theorem keyDown?_endWait (j : KeyIdx) :
    (s.endWait).keyDown? j = s.keyDown? j := rfl
@[simp] theorem slot_endWait (j : Nat) :
    (s.endWait).slot j = s.slot j := rfl
@[simp] theorem stackCapacity_endWait :
    (s.endWait).stackCapacity = s.stackCapacity := rfl

/-! ### accessors after raise -/

@[simp] theorem reg_raise (t : Trap) (r : RegIdx) :
    (s.raise t).reg r = s.reg r := rfl
@[simp] theorem readByte_raise (t : Trap) (p : Nat) :
    (s.raise t).readByte p = s.readByte p := rfl
@[simp] theorem pixel_raise (t : Trap) (row : Fin Config.displayHeight) (col : Fin Config.displayWidth) :
    (s.raise t).pixel row col = s.pixel row col := rfl
@[simp] theorem keyDown?_raise (t : Trap) (j : KeyIdx) :
    (s.raise t).keyDown? j = s.keyDown? j := rfl
@[simp] theorem slot_raise (t : Trap) (j : Nat) :
    (s.raise t).slot j = s.slot j := rfl
@[simp] theorem stackCapacity_raise (t : Trap) :
    (s.raise t).stackCapacity = s.stackCapacity := rfl

/-! ### accessors after setRegsFrom0 -/

@[simp] theorem readByte_setRegsFrom0 (bs : List Byte) (p : Nat) :
    (s.setRegsFrom0 bs).readByte p = s.readByte p := rfl
@[simp] theorem pixel_setRegsFrom0 (bs : List Byte) (row : Fin Config.displayHeight) (col : Fin Config.displayWidth) :
    (s.setRegsFrom0 bs).pixel row col = s.pixel row col := rfl
@[simp] theorem keyDown?_setRegsFrom0 (bs : List Byte) (j : KeyIdx) :
    (s.setRegsFrom0 bs).keyDown? j = s.keyDown? j := rfl
@[simp] theorem slot_setRegsFrom0 (bs : List Byte) (j : Nat) :
    (s.setRegsFrom0 bs).slot j = s.slot j := rfl
@[simp] theorem stackCapacity_setRegsFrom0 (bs : List Byte) :
    (s.setRegsFrom0 bs).stackCapacity = s.stackCapacity := rfl

/-! ### accessors after setFlagThenReg -/

@[simp] theorem readByte_setFlagThenReg (x : RegIdx) (c : Bool) (b : Byte) (p : Nat) :
    (s.setFlagThenReg x c b).readByte p = s.readByte p := rfl
@[simp] theorem pixel_setFlagThenReg (x : RegIdx) (c : Bool) (b : Byte) (row : Fin Config.displayHeight) (col : Fin Config.displayWidth) :
    (s.setFlagThenReg x c b).pixel row col = s.pixel row col := rfl
@[simp] theorem keyDown?_setFlagThenReg (x : RegIdx) (c : Bool) (b : Byte) (j : KeyIdx) :
    (s.setFlagThenReg x c b).keyDown? j = s.keyDown? j := rfl
@[simp] theorem slot_setFlagThenReg (x : RegIdx) (c : Bool) (b : Byte) (j : Nat) :
    (s.setFlagThenReg x c b).slot j = s.slot j := rfl
@[simp] theorem stackCapacity_setFlagThenReg (x : RegIdx) (c : Bool) (b : Byte) :
    (s.setFlagThenReg x c b).stackCapacity = s.stackCapacity := rfl

/-! ### accessors after skipIf -/

@[simp] theorem reg_skipIf (c : Bool) (r : RegIdx) :
    (s.skipIf c).reg r = s.reg r := by cases c <;> rfl
@[simp] theorem readByte_skipIf (c : Bool) (p : Nat) :
    (s.skipIf c).readByte p = s.readByte p := by cases c <;> rfl
@[simp] theorem pixel_skipIf (c : Bool) (row : Fin Config.displayHeight) (col : Fin Config.displayWidth) :
    (s.skipIf c).pixel row col = s.pixel row col := by cases c <;> rfl
@[simp] theorem keyDown?_skipIf (c : Bool) (j : KeyIdx) :
    (s.skipIf c).keyDown? j = s.keyDown? j := by cases c <;> rfl
@[simp] theorem slot_skipIf (c : Bool) (j : Nat) :
    (s.skipIf c).slot j = s.slot j := by cases c <;> rfl
@[simp] theorem stackCapacity_skipIf (c : Bool) :
    (s.skipIf c).stackCapacity = s.stackCapacity := by cases c <;> rfl

/-! ### skipIf -/

@[simp] theorem skipIf_V (c : Bool) : (s.skipIf c).V = s.V := by cases c <;> rfl
@[simp] theorem skipIf_I (c : Bool) : (s.skipIf c).I = s.I := by cases c <;> rfl
@[simp] theorem skipIf_pc (c : Bool) : (s.skipIf c).pc = s.pc + (if c then 4 else 2) := by
  cases c
  · rfl
  · show s.pc + 2 + 2 = s.pc + 4
    rw [BitVec.add_assoc]; rfl
@[simp] theorem skipIf_sp (c : Bool) : (s.skipIf c).sp = s.sp := by cases c <;> rfl
@[simp] theorem skipIf_stack (c : Bool) : (s.skipIf c).stack = s.stack := by cases c <;> rfl
@[simp] theorem skipIf_DT (c : Bool) : (s.skipIf c).DT = s.DT := by cases c <;> rfl
@[simp] theorem skipIf_ST (c : Bool) : (s.skipIf c).ST = s.ST := by cases c <;> rfl
@[simp] theorem skipIf_mem (c : Bool) : (s.skipIf c).mem = s.mem := by cases c <;> rfl
@[simp] theorem skipIf_fb (c : Bool) : (s.skipIf c).fb = s.fb := by cases c <;> rfl
@[simp] theorem skipIf_key (c : Bool) : (s.skipIf c).key = s.key := by cases c <;> rfl
@[simp] theorem skipIf_run (c : Bool) : (s.skipIf c).run = s.run := by cases c <;> rfl
@[simp] theorem skipIf_kx (c : Bool) : (s.skipIf c).kx = s.kx := by cases c <;> rfl
@[simp] theorem skipIf_faultCause (c : Bool) : (s.skipIf c).faultCause = s.faultCause := by cases c <;> rfl
@[simp] theorem skipIf_faultInfo (c : Bool) : (s.skipIf c).faultInfo = s.faultInfo := by cases c <;> rfl
@[simp] theorem skipIf_rng (c : Bool) : (s.skipIf c).rng = s.rng := by cases c <;> rfl
@[simp] theorem skipIf_fontBase (c : Bool) : (s.skipIf c).fontBase = s.fontBase := by cases c <;> rfl

end Sys2Proof.Machine.State
end

