-- ==== Sys2Proof/Laws/Ops.lean ====
section
/-! SUPPORT. One lemma per shared operation: what reading a register, a byte or a key gives after an update, what the
range check answers, what a block transfer moves, and the two outcomes of a checked access. -/

namespace Sys2Proof.Machine

/-! ### Registers -/

theorem State.reg_eq (s : State) (x : RegIdx) : s.reg x = s.V[x] := rfl

/-- Two states with the same register file read alike. -/
theorem State.reg_congr {s t : State} (h : t.V = s.V) (x : RegIdx) : t.reg x = s.reg x := by
  simp [State.reg, h]

theorem State.reg_setReg (s : State) (x y : RegIdx) (b : Byte) :
    (s.setReg x b).reg y = if y = x then b else s.reg y := by
  simp only [State.reg, State.setReg, Fin.getElem_fin, Vector.getElem_set]
  split <;> rename_i h
  · rw [if_pos (Fin.ext h.symm)]
  · rw [if_neg (fun e => h (congrArg Fin.val e).symm)]

@[simp] theorem State.reg_setReg_same (s : State) (x : RegIdx) (b : Byte) : (s.setReg x b).reg x = b := by
  rw [State.reg_setReg, if_pos rfl]

theorem State.reg_setReg_other (s : State) {x y : RegIdx} (h : y ≠ x) (b : Byte) :
    (s.setReg x b).reg y = s.reg y := by
  rw [State.reg_setReg, if_neg h]

/-- The flag and result writes together: the result in `Vx`, the flag in VF unless `x` is VF, the rest kept (R131). -/
theorem State.reg_setFlagThenReg (s : State) (x y : RegIdx) (c : Bool) (b : Byte) :
    (s.setFlagThenReg x c b).reg y = if y = x then b else if y = vf then flagByte c else s.reg y := by
  rw [State.setFlagThenReg, State.reg_setReg, State.reg_setReg]

/-! ### The register block (R145, R146) -/

@[simp] theorem State.length_regsUpTo (s : State) (x : RegIdx) : (s.regsUpTo x).length = x.val + 1 := by
  have := x.isLt
  rw [State.regsUpTo, List.length_take, Vector.length_toList]
  omega

theorem State.getD_regsUpTo (s : State) {x j : RegIdx} (h : j.val ≤ x.val) :
    (s.regsUpTo x).getD j.val 0 = s.reg j := by
  have hj : j.val < s.V.toList.length := by simp
  rw [State.regsUpTo, List.getD_eq_getElem?_getD, List.getElem?_take_of_lt (by omega),
    List.getElem?_eq_getElem hj]
  simp [State.reg]

theorem getElem_loadFrom (v : Vector Byte 16) (k : Nat) (bs : List Byte) (j : RegIdx) :
    (loadFrom v k bs)[j] = if k ≤ j.val ∧ j.val < k + bs.length then bs.getD (j.val - k) 0 else v[j] := by
  induction bs generalizing v k with
  | nil => rw [if_neg (by simp)]; rfl
  | cons b bs ih =>
    rw [loadFrom, ih]
    simp only [List.length_cons, Fin.getElem_fin, Vector.getElem_setIfInBounds]
    rcases Nat.lt_trichotomy j.val k with hlt | heq | hgt
    · rw [if_neg (by omega), if_neg (by omega), if_neg (by omega)]
    · subst heq
      rw [if_neg (by omega), if_pos rfl, if_pos (by omega), Nat.sub_self]; rfl
    · by_cases hin : j.val < k + (bs.length + 1)
      · rw [if_pos (by omega), if_pos (by omega)]
        rw [show j.val - k = (j.val - (k + 1)) + 1 by omega]; rfl
      · rw [if_neg (by omega), if_neg (by omega), if_neg (by omega)]

/-- Loading a block: byte `j` of it in `Vj`, the registers after it kept. -/
theorem State.reg_setRegsFrom0 (s : State) (bs : List Byte) (j : RegIdx) :
    (s.setRegsFrom0 bs).reg j = if j.val < bs.length then bs.getD j.val 0 else s.reg j := by
  have := getElem_loadFrom s.V 0 bs j
  simpa [State.reg, State.setRegsFrom0] using this

/-! ### The call stack -/

theorem getD_set (l : List Word) (k j : Nat) (v : Word) :
    (l.set k v).getD j 0 = if j = k ∧ k < l.length then v else l.getD j 0 := by
  simp only [List.getD_eq_getElem?_getD, List.getElem?_set]
  by_cases h : k = j
  · subst h
    by_cases hk : k < l.length
    · simp [hk]
    · simp [hk]
  · rw [if_neg h, if_neg fun e => h e.1.symm]

/-- Two states with the same stack have the same slots. -/
theorem State.slot_congr {s t : State} (h : t.stack = s.stack) (j : Nat) : t.slot j = s.slot j := by
  simp [State.slot, h]


/-- After a push the slot below `sp` holds the value, the others are kept. -/
theorem State.slot_push (s : State) (v : Word) (j : Nat) :
    (s.push v).slot j = if j = s.sp - 1 ∧ s.sp - 1 < s.stackCapacity then v else s.slot j :=
  getD_set s.stack (s.sp - 1) j v

/-- After a pop the popped slot is zero, the others are kept. -/
theorem State.slot_pop (s : State) (j : Nat) : s.pop.slot j = if j = s.sp then 0 else s.slot j := by
  have h := getD_set s.stack s.sp j 0
  rw [show s.pop.slot j = (s.stack.set s.sp 0).getD j 0 from rfl, h]
  by_cases hj : j = s.sp
  · subst hj
    by_cases hk : s.sp < s.stack.length
    · simp [hk]
    · simp [hk]
  · simp [hj, State.slot]

@[simp] theorem State.stackCapacity_push (s : State) (v : Word) : (s.push v).stackCapacity = s.stackCapacity := by
  simp [State.stackCapacity]
@[simp] theorem State.stackCapacity_pop (s : State) : s.pop.stackCapacity = s.stackCapacity := by
  simp [State.stackCapacity]

/-- Reset leaves every slot zero and the capacity as it was. -/
@[simp] theorem State.slot_resetOp (s : State) (j : Nat) : s.resetOp.slot j = 0 := by
  simp only [State.slot, State.resetOp, List.getD_eq_getElem?_getD, List.getElem?_replicate]
  split <;> rfl
@[simp] theorem State.stackCapacity_resetOp (s : State) : s.resetOp.stackCapacity = s.stackCapacity := by
  simp [State.stackCapacity, State.resetOp]

/-! ### Bytes -/

/-- Two states with the same memory read alike. -/
theorem State.readByte_congr {s t : State} (h : t.mem = s.mem) (a : Nat) : t.readByte a = s.readByte a := by
  simp [State.readByte, h]

/-- A byte after a block write inside memory. -/
theorem State.readByte_writeBytes (s : State) {a : Nat} {bs : List Byte} (h : a + bs.length ≤ 4096) (c : Nat) :
    (s.writeBytes a bs).readByte c =
      if a ≤ c ∧ c < a + bs.length then bs.getD (c - a) 0 else s.readByte c :=
  Memory.read_writeBlock s.mem h c

@[simp] theorem State.length_readBytes (s : State) (a n : Nat) : (s.readBytes a n).length = n :=
  Memory.length_readBlock s.mem a n

theorem State.getD_readBytes (s : State) (a : Nat) {n k : Nat} (h : k < n) :
    (s.readBytes a n).getD k 0 = s.readByte (a + k) :=
  Memory.getD_readBlock s.mem a h

/-! ### Keys -/

theorem State.keyDown?_setKey (s : State) (k j : KeyIdx) (c : Bool) :
    (s.setKey k c).keyDown? j = if j = k then c else s.keyDown? j := by
  simp only [State.keyDown?, State.setKey, Fin.getElem_fin, Vector.getElem_set]
  split <;> rename_i h
  · rw [if_pos (Fin.ext h.symm)]
  · rw [if_neg (fun e => h (congrArg Fin.val e).symm)]

/-! ### The range check (R55) -/

theorem firstOutOfRange_zero (a : Nat) : firstOutOfRange a 0 = none := rfl

/-- In range: an access of no byte, or one that ends at 0xFFF or below. -/
theorem firstOutOfRange_eq_none {a n : Nat} : firstOutOfRange a n = none ↔ n = 0 ∨ a + n ≤ 4096 := by
  unfold firstOutOfRange
  split
  · simp [*]
  · split
    · simp; omega
    · split
      · simp; omega
      · simp; omega

/-- Out of range: the first address outside memory is recorded. -/
theorem firstOutOfRange_eq_some {a n b : Nat} :
    firstOutOfRange a n = some b ↔ n ≠ 0 ∧ 4096 < a + n ∧ b = if a > 0xFFF then a else 0x1000 := by
  unfold firstOutOfRange
  split
  · simp [*]
  · split
    · rename_i h0 h1
      simp [h0]; omega
    · split
      · rename_i h0 h1 h2
        simp [h0]; omega
      · simp; omega

/-- A checked access in range does what it guards. -/
theorem State.ifInRange_ok (s k : State) {a n : Nat} (h : n = 0 ∨ a + n ≤ 4096) : s.ifInRange a n k = k := by
  rw [State.ifInRange, firstOutOfRange_eq_none.2 h]

/-- A checked access out of range takes the fault with the first out-of-range address. -/
theorem State.ifInRange_fault (s k : State) {a n : Nat} (h0 : n ≠ 0) (h : 4096 < a + n) :
    s.ifInRange a n k = s.raise (.addressOutOfRange (if a > 0xFFF then a else 0x1000)) := by
  rw [State.ifInRange, firstOutOfRange_eq_some.2 ⟨h0, h, rfl⟩]

/-- The two outcomes of a checked access. -/
theorem State.ifInRange_cases (s k : State) (a n : Nat) :
    ((n = 0 ∨ a + n ≤ 4096) ∧ s.ifInRange a n k = k) ∨
    (n ≠ 0 ∧ 4096 < a + n ∧ s.ifInRange a n k = s.raise (.addressOutOfRange (if a > 0xFFF then a else 0x1000))) := by
  by_cases h : n = 0 ∨ a + n ≤ 4096
  · exact .inl ⟨h, s.ifInRange_ok k h⟩
  · exact .inr ⟨by omega, by omega, s.ifInRange_fault k (by omega) (by omega)⟩

/-- A host access in memory happens; one outside has no move. -/
theorem hostAccess_cases (a n : Nat) (k : State) :
    ((n = 0 ∨ a + n ≤ 4096) ∧ hostAccess a n k = .next k) ∨
    (n ≠ 0 ∧ 4096 < a + n ∧ hostAccess a n k = .fault (.hostNoMove (if a > 0xFFF then a else 0x1000))) := by
  unfold hostAccess
  by_cases h : n = 0 ∨ a + n ≤ 4096
  · exact .inl ⟨h, by rw [firstOutOfRange_eq_none.2 h]⟩
  · exact .inr ⟨by omega, by omega, by rw [firstOutOfRange_eq_some.2 ⟨by omega, by omega, rfl⟩]⟩

/-! ### Widening -/

@[simp] theorem toNat_widenAddr (a : Addr12) : (widenAddr a).toNat = a.toNat := by
  rw [widenAddr, BitVec.toNat_setWidth, Nat.mod_eq_of_lt (Nat.lt_trans a.isLt (by decide))]

@[simp] theorem toNat_widenByte (b : Byte) : (widenByte b).toNat = b.toNat := by
  rw [widenByte, BitVec.toNat_setWidth, Nat.mod_eq_of_lt (Nat.lt_trans b.isLt (by decide))]

@[simp] theorem val_lowNibble (b : Byte) : (lowNibble b).val = b.toNat % 16 := by
  show (b.extractLsb' 0 4).toNat = b.toNat % 16
  simp

@[simp] theorem toNat_flagByte (c : Bool) : (flagByte c).toNat = if c then 1 else 0 := by
  cases c <;> rfl

end Sys2Proof.Machine
end

