-- ==== Sys2Proof/Laws/Frame.lean ====
section
/-! SUPPORT. How a frame is shown: from the fields that two states share, and for fault entry once for all. -/

namespace Sys2Proof.Machine

/-- A frame from the fields: each part not listed as changed has its fields as before. The hypotheses that hold by
definition, or are about a listed part, fill themselves in. -/
theorem KeepsParts.of_fields {c : List Part} {s t : State}
    (index : Part.index ∉ c → t.I = s.I := by intro h; first | rfl | simp at h)
    (stack : Part.stack ∉ c → t.sp = s.sp ∧ t.stack = s.stack := by
      intro h; first | exact ⟨rfl, rfl⟩ | simp at h)
    (timers : Part.timers ∉ c → t.DT = s.DT ∧ t.ST = s.ST := by intro h; first | exact ⟨rfl, rfl⟩ | simp at h)
    (memory : Part.memory ∉ c → t.mem = s.mem := by intro h; first | rfl | simp at h)
    (display : Part.display ∉ c → t.fb = s.fb := by intro h; first | rfl | simp at h)
    (keys : Part.keys ∉ c → t.key = s.key := by intro h; first | rfl | simp at h)
    (control : Part.control ∉ c →
        t.run = s.run ∧ t.kx = s.kx ∧ t.faultCause = s.faultCause ∧ t.faultInfo = s.faultInfo := by
      intro h; first | exact ⟨rfl, rfl, rfl, rfl⟩ | simp at h)
    (random : Part.random ∉ c → t.rng = s.rng := by intro h; first | rfl | simp at h)
    (params : Part.params ∉ c → t.fontBase = s.fontBase ∧ t.stackCapacity = s.stackCapacity := by
      intro h; first | exact ⟨rfl, rfl⟩ | exact ⟨rfl, by simp⟩ | simp at h) : KeepsParts c s t := by
  intro p hp
  cases p with
  | index => exact index hp
  | stack => exact stack hp
  | timers => exact timers hp
  | memory => exact State.readByte_congr (memory hp)
  | display => intro row col; simp [State.pixel, display hp]
  | keys => intro k; simp [State.keyDown?, keys hp]
  | control => exact control hp
  | random => exact random hp
  | params => exact params hp

theorem KeepsParts.refl (c : List Part) (s : State) : KeepsParts c s s := KeepsParts.of_fields

/-- The register file as a whole kept. -/
theorem KeepsRegs.of_file {c : List RegIdx} {s t : State} (h : t.V = s.V) : KeepsRegs c s t :=
  fun r _ => State.reg_congr h r

/-- One register written. -/
theorem KeepsRegs.of_setReg {s t : State} {x : RegIdx} {b : Byte} (h : t.V = (s.setReg x b).V) :
    KeepsRegs [x] s t := by
  intro r hr
  rw [State.reg_congr h, State.reg_setReg, if_neg (by simpa using hr)]

/-- VF and one register written. -/
theorem KeepsRegs.of_setFlagThenReg {s t : State} {x : RegIdx} {c : Bool} {b : Byte}
    (h : t.V = (s.setFlagThenReg x c b).V) : KeepsRegs [x, 15] s t := by
  intro r hr
  simp only [List.mem_cons, List.not_mem_nil, or_false, not_or] at hr
  rw [State.reg_congr h, State.reg_setFlagThenReg, if_neg hr.1, if_neg (show ¬ r = vf from hr.2)]

/-- Fault entry is what `raise` does (R176). -/
theorem State.faultEntry_raise (s : State) (t : Trap) : FaultEntry s (s.raise t) t.cause t.info :=
  ⟨rfl, rfl, rfl, rfl, rfl, KeepsRegs.of_file rfl, KeepsParts.of_fields⟩

/-- The info of an address fault of a block that starts at a 16-bit address. -/
theorem info_outOfRange (a : Word) :
    (Trap.addressOutOfRange (if a.toNat > 0xFFF then a.toNat else 0x1000)).info =
      if 0xFFF < a.toNat then a else 0x1000 := by
  show BitVec.ofNat 16 _ = _
  split <;> simp

/-- Fault entry of a block that starts at a 16-bit address. -/
theorem State.faultEntry_block (s : State) (a : Word) :
    FaultEntry s (s.raise (.addressOutOfRange (if a.toNat > 0xFFF then a.toNat else 0x1000)))
      .addressOutOfRange (if 0xFFF < a.toNat then a else 0x1000) :=
  info_outOfRange a ▸ s.faultEntry_raise _

end Sys2Proof.Machine
end

