-- ==== Sys2Proof/Laws/Step.lean ====
section
/-! SUPPORT. What one step can do, said once, and the small lemmas about fetching. -/

namespace Sys2Proof.Machine

/-- Every instruction answers a next state. -/
theorem exec_next (i : Instr) (s : State) : ∃ t, exec i s = .next t := by
  cases i <;> exact ⟨_, rfl⟩

/-- A step in a run state other than RUNNING does nothing. -/
theorem step_idle {s : State} (h : s.run ≠ .running) : step s = .next s := by
  unfold step
  cases hr : s.run with
  | running => exact absurd hr h
  | awaitingKey => rfl
  | halted => rfl

theorem step_running {s : State} (h : s.run = .running) : step s = runOne s := by
  rw [step, h]

/-- A step in RUNNING with a fetchable `pc` runs what the word decodes to. -/
theorem step_fetched {s : State} (h : s.run = .running) (hpc : s.pc.toNat + 2 ≤ 4096) :
    step s = runDecoded (decodeWord s.fetchWord) s := by
  rw [step_running h, runOne, firstOutOfRange_eq_none.2 (.inr hpc)]

/-- A step in RUNNING with a `pc` that is not fetchable takes the fetch fault. -/
theorem step_unfetchable {s : State} (h : s.run = .running) (hpc : 4096 < s.pc.toNat + 2) :
    step s = .next (s.raise (.addressOutOfRange (if s.pc.toNat > 0xFFF then s.pc.toNat else 0x1000))) := by
  rw [step_running h, runOne, firstOutOfRange_eq_some.2 ⟨by decide, hpc, rfl⟩]

/-- Everything a step can do. -/
theorem step_cases {s t : State} (h : step s = .next t) :
    (s.run ≠ .running ∧ t = s) ∨
    (s.run = .running ∧ 4096 < s.pc.toNat + 2 ∧
      t = s.raise (.addressOutOfRange (if s.pc.toNat > 0xFFF then s.pc.toNat else 0x1000))) ∨
    (∃ w, s.run = .running ∧ s.pc.toNat + 2 ≤ 4096 ∧ decodeWord s.fetchWord = .illegal w ∧
      t = s.raise (.decodeError w)) ∨
    (∃ i, s.run = .running ∧ s.pc.toNat + 2 ≤ 4096 ∧ decodeWord s.fetchWord = .instr i ∧ exec i s = .next t) := by
  by_cases hr : s.run = .running
  · by_cases hpc : s.pc.toNat + 2 ≤ 4096
    · rw [step_fetched hr hpc] at h
      cases hd : decodeWord s.fetchWord with
      | instr i => rw [hd] at h; exact .inr (.inr (.inr ⟨i, hr, hpc, rfl, h⟩))
      | illegal w => rw [hd] at h; cases h; exact .inr (.inr (.inl ⟨w, hr, hpc, rfl, rfl⟩))
    · rw [step_unfetchable hr (by omega)] at h
      cases h
      exact .inr (.inl ⟨hr, by omega, rfl⟩)
  · rw [step_idle hr] at h
    cases h
    exact .inl ⟨hr, rfl⟩

/-- The fetched word is made of the two bytes at `pc`. -/
theorem fetchWord_hiByte (s : State) : s.fetchWord.hiByte = s.readByte s.pc.toNat := hiByte_wordOfBytes _ _

theorem fetchWord_loByte (s : State) : s.fetchWord.loByte = s.readByte (s.pc.toNat + 1) := loByte_wordOfBytes _ _

end Sys2Proof.Machine
end

