-- ==== Sys2Proof/Laws/Moves.lean ====
section
/-! SUPPORT. What an instruction and a host move can do to the run state, said once, and the one word a rejection
names. -/

namespace Sys2Proof.Machine

/-- A rejected word is rejected under its own name. -/
theorem decodeWord_illegal {w v : Word} (h : decodeWord w = .illegal v) : v = w := by
  unfold decodeWord decodeFamily8 decodeFamilyE decodeFamilyF at h
  repeat' split at h
  all_goals first | cases h; rfl | cases h

/-- A host move resets, ends a wait, or leaves run state, `kx`, `pc` and the register file. -/
theorem hostMove_cases {m : HostMove} {s t : State} (h : hostMove m s = .next t) :
    (m = .reset ∧ t = s.resetOp) ∨
    (s.run = .awaitingKey ∧ ∃ k, m = .keyDown k ∧
      t = (((s.setKey k true).setReg s.kx (keyNumber k)).advance).endWait) ∨
    ((∀ k, m = .keyDown k → s.run ≠ .awaitingKey) ∧
      t.run = s.run ∧ t.kx = s.kx ∧ t.pc = s.pc ∧ t.V = s.V ∧ t.faultCause = s.faultCause ∧
      t.faultInfo = s.faultInfo) := by
  have access : ∀ {a n : Nat} {k : State}, hostAccess a n k = .next t → t = k := fun {a n k} e => by
    rcases hostAccess_cases a n k with ⟨_, e'⟩ | ⟨_, _, e'⟩ <;> rw [e'] at e <;> cases e
    rfl
  cases m
  case reset => cases h; exact .inl ⟨rfl, rfl⟩
  case keyDown k =>
    simp only [hostMove, hostKeyDown] at h
    split at h <;> cases h
    · exact .inr (.inl ⟨‹_›, k, rfl, rfl⟩)
    · exact .inr (.inr ⟨fun _ _ => ‹_›, rfl, rfl, rfl, rfl, rfl, rfl⟩)
  case memWriteByte => obtain rfl := access h; exact .inr (.inr ⟨nofun, rfl, rfl, rfl, rfl, rfl, rfl⟩)
  case memWriteWord => obtain rfl := access h; exact .inr (.inr ⟨nofun, rfl, rfl, rfl, rfl, rfl, rfl⟩)
  case memReadByte => obtain rfl := access h; exact .inr (.inr ⟨nofun, rfl, rfl, rfl, rfl, rfl, rfl⟩)
  case memReadWord => obtain rfl := access h; exact .inr (.inr ⟨nofun, rfl, rfl, rfl, rfl, rfl, rfl⟩)
  all_goals (cases h; exact .inr (.inr ⟨nofun, rfl, rfl, rfl, rfl, rfl, rfl⟩))

/-- A checked access keeps the run state or halts. -/
theorem State.run_ifInRange {s k : State} (hk : k.run = s.run) (a n : Nat) :
    (s.ifInRange a n k).run = s.run ∨ (s.ifInRange a n k).run = .halted := by
  rcases s.ifInRange_cases k a n with ⟨_, e⟩ | ⟨_, _, e⟩ <;> rw [e]
  · exact .inl hk
  · exact .inr rfl

/-- An instruction keeps the run state, halts, or begins to wait. -/
theorem exec_run {i : Instr} {s t : State} (h : exec i s = .next t) :
    t.run = s.run ∨ t.run = .halted ∨ (t.run = .awaitingKey ∧ ∃ x, i = .ldVxK x) := by
  have either : t.run = s.run ∨ t.run = .halted →
      t.run = s.run ∨ t.run = .halted ∨ (t.run = .awaitingKey ∧ ∃ x, i = .ldVxK x) :=
    fun e => e.elim .inl (.inr ∘ .inl)
  cases i
  case call => simp only [exec, execCall] at h; split at h <;> cases h <;> simp
  case ret => simp only [exec, execRet] at h; split at h <;> cases h <;> simp
  case jpV0 => simp only [exec, execJpV0] at h; split at h <;> cases h <;> simp
  case drw => cases h; exact either (State.run_ifInRange (by rfl) _ _)
  case ldB => cases h; exact either (State.run_ifInRange (by rfl) _ _)
  case stRegs => cases h; exact either (State.run_ifInRange (by rfl) _ _)
  case ldRegs => cases h; exact either (State.run_ifInRange (by rfl) _ _)
  case ldVxK x => cases h; exact .inr (.inr ⟨rfl, x, rfl⟩)
  all_goals (cases h; simp)

end Sys2Proof.Machine
end

