-- ==== Sys2Proof/Laws/PerInstr.lean ====
section
/-! SUPPORT. The family FixedBits: the word the encoder gives an instruction has the table's `match` bits under the table's
`mask` (spec 30_encoding.md R75), one lemma per instruction. -/

namespace Sys2Proof.Laws.FixedBits

/-- The encoded word lies in the instruction's row of the table. -/
def Statement (i : Instr) : Prop := encode i &&& i.maskBits = i.matchBits

/-- A mask that keeps the family nibble and the `j` low bits, on numbers. -/
theorem and_mask {n : Nat} (hn : n < 65536) {j : Nat} (hj : j ≤ 8) :
    n &&& (61440 + (2 ^ j - 1)) = 4096 * (n / 4096) + n % 2 ^ j := by
  have hp : 2 ^ j ≤ 256 := Nat.pow_le_pow_right (by decide) hj
  have h0 : 0 < 2 ^ j := Nat.two_pow_pos j
  have hhi : (n &&& (61440 + (2 ^ j - 1))) / 2 ^ 12 = n / 2 ^ 12 := by
    rw [Nat.and_div_two_pow, show (61440 + (2 ^ j - 1)) / 2 ^ 12 = 2 ^ 4 - 1 by omega,
      Nat.and_two_pow_sub_one_eq_mod]
    omega
  have hlo : (n &&& (61440 + (2 ^ j - 1))) % 2 ^ 12 = n % 2 ^ j := by
    rw [Nat.and_mod_two_pow, show (61440 + (2 ^ j - 1)) % 2 ^ 12 = 2 ^ j - 1 by omega,
      Nat.and_two_pow_sub_one_eq_mod, Nat.mod_mod_of_dvd _ (Nat.pow_dvd_pow 2 (by omega))]
  omega

/-- The same on words. -/
theorem word_and_mask {w m : Word} {j f k : Nat} (hj : j ≤ 8) (hm : m.toNat = 61440 + (2 ^ j - 1))
    (hf : w.toNat / 4096 = f) (hk : w.toNat % 2 ^ j = k) : w &&& m = BitVec.ofNat 16 (4096 * f + k) := by
  apply BitVec.eq_of_toNat_eq
  have hw := w.isLt
  have h0 : 2 ^ j ≤ 256 := Nat.pow_le_pow_right (by decide) hj
  have h1 : w.toNat % 2 ^ j < 2 ^ j := Nat.mod_lt _ (Nat.two_pow_pos j)
  rw [BitVec.toNat_and, hm, and_mask hw hj, BitVec.toNat_ofNat, hf, hk, Nat.mod_eq_of_lt]
  omega

theorem nnn_row {f : Nat} (hf : f < 16) (nnn : Addr12) : wordNNN f nnn &&& 0xF000 = BitVec.ofNat 16 (4096 * f) := by
  have := nnn.isLt
  exact word_and_mask (j := 0) (k := 0) (by omega) rfl (by rw [toNat_wordNNN hf]; omega) (Nat.mod_one _)

theorem xkk_row {f : Nat} (hf : f < 16) (x : RegIdx) (kk : Byte) :
    wordXKK f x kk &&& 0xF000 = BitVec.ofNat 16 (4096 * f) := by
  have := kk.isLt; have := x.isLt
  exact word_and_mask (j := 0) (k := 0) (by omega) rfl (by rw [toNat_wordXKK hf]; omega) (Nat.mod_one _)

theorem xyn_row {f : Nat} (hf : f < 16) (x y : RegIdx) (n : Fin 16) :
    wordXYN f x y n &&& 0xF000 = BitVec.ofNat 16 (4096 * f) := by
  have := n.isLt; have := x.isLt; have := y.isLt
  exact word_and_mask (j := 0) (k := 0) (by omega) rfl (by rw [toNat_wordXYN hf]; omega) (Nat.mod_one _)

theorem xy_row {f : Nat} (hf : f < 16) (x y : RegIdx) (n : Fin 16) :
    wordXYN f x y n &&& 0xF00F = BitVec.ofNat 16 (4096 * f + n.val) := by
  have := n.isLt; have := x.isLt; have := y.isLt
  exact word_and_mask (j := 4) (by omega) rfl (by rw [toNat_wordXYN hf]; omega)
    (by rw [toNat_wordXYN hf]; omega)

theorem x_row {f : Nat} (hf : f < 16) (x : RegIdx) (kk : Byte) :
    wordXKK f x kk &&& 0xF0FF = BitVec.ofNat 16 (4096 * f + kk.toNat) := by
  have := kk.isLt; have := x.isLt
  exact word_and_mask (j := 8) (by omega) rfl (by rw [toNat_wordXKK hf]; omega)
    (by rw [toNat_wordXKK hf]; omega)

theorem cls : Statement (.cls) := by unfold Statement; decide
theorem ret : Statement (.ret) := by unfold Statement; decide
theorem sys (nnn : Addr12) : Statement (.sys nnn) := nnn_row (by decide) nnn
theorem jp (nnn : Addr12) : Statement (.jp nnn) := nnn_row (by decide) nnn
theorem call (nnn : Addr12) : Statement (.call nnn) := nnn_row (by decide) nnn
theorem seByte (x : RegIdx) (kk : Byte) : Statement (.seByte x kk) := xkk_row (by decide) x kk
theorem sneByte (x : RegIdx) (kk : Byte) : Statement (.sneByte x kk) := xkk_row (by decide) x kk
theorem seReg (x : RegIdx) (y : RegIdx) : Statement (.seReg x y) := xyn_row (by decide) x y _
theorem ldByte (x : RegIdx) (kk : Byte) : Statement (.ldByte x kk) := xkk_row (by decide) x kk
theorem addByte (x : RegIdx) (kk : Byte) : Statement (.addByte x kk) := xkk_row (by decide) x kk
theorem ldReg (x : RegIdx) (y : RegIdx) : Statement (.ldReg x y) := xy_row (by decide) x y _
theorem orReg (x : RegIdx) (y : RegIdx) : Statement (.orReg x y) := xy_row (by decide) x y _
theorem andReg (x : RegIdx) (y : RegIdx) : Statement (.andReg x y) := xy_row (by decide) x y _
theorem xorReg (x : RegIdx) (y : RegIdx) : Statement (.xorReg x y) := xy_row (by decide) x y _
theorem addReg (x : RegIdx) (y : RegIdx) : Statement (.addReg x y) := xy_row (by decide) x y _
theorem subReg (x : RegIdx) (y : RegIdx) : Statement (.subReg x y) := xy_row (by decide) x y _
theorem shr (x : RegIdx) (y : RegIdx) : Statement (.shr x y) := xy_row (by decide) x y _
theorem subnReg (x : RegIdx) (y : RegIdx) : Statement (.subnReg x y) := xy_row (by decide) x y _
theorem shl (x : RegIdx) (y : RegIdx) : Statement (.shl x y) := xy_row (by decide) x y _
theorem sneReg (x : RegIdx) (y : RegIdx) : Statement (.sneReg x y) := xyn_row (by decide) x y _
theorem ldI (nnn : Addr12) : Statement (.ldI nnn) := nnn_row (by decide) nnn
theorem jpV0 (nnn : Addr12) : Statement (.jpV0 nnn) := nnn_row (by decide) nnn
theorem rnd (x : RegIdx) (kk : Byte) : Statement (.rnd x kk) := xkk_row (by decide) x kk
theorem drw (x : RegIdx) (y : RegIdx) (n : Fin 16) : Statement (.drw x y n) := xyn_row (by decide) x y n
theorem skp (x : RegIdx) : Statement (.skp x) := x_row (by decide) x _
theorem sknp (x : RegIdx) : Statement (.sknp x) := x_row (by decide) x _
theorem ldVxDT (x : RegIdx) : Statement (.ldVxDT x) := x_row (by decide) x _
theorem ldVxK (x : RegIdx) : Statement (.ldVxK x) := x_row (by decide) x _
theorem ldDTVx (x : RegIdx) : Statement (.ldDTVx x) := x_row (by decide) x _
theorem ldSTVx (x : RegIdx) : Statement (.ldSTVx x) := x_row (by decide) x _
theorem addI (x : RegIdx) : Statement (.addI x) := x_row (by decide) x _
theorem ldF (x : RegIdx) : Statement (.ldF x) := x_row (by decide) x _
theorem ldB (x : RegIdx) : Statement (.ldB x) := x_row (by decide) x _
theorem stRegs (x : RegIdx) : Statement (.stRegs x) := x_row (by decide) x _
theorem ldRegs (x : RegIdx) : Statement (.ldRegs x) := x_row (by decide) x _

end Sys2Proof.Laws.FixedBits
end

