-- ==== Sys2Proof/Tests/Slice0.lean ====
section
/-! SUPPORT. The model's own tests: well-formedness, decoding of words written out from the encoding, one step of each
instruction, the host's moves, and for each statement with hypotheses a concrete state that meets them. Expected values
are those of spec/95_test_vectors.md (S<n>, T<n>) or are worked out by hand from the rule named. -/

namespace Sys2Proof.Tests
open Sys2Proof Sys2Proof.Machine

/-- The fresh machine with some state set and a word where the next step fetches. -/
def boot (w : Nat) (f : State → State := id) : State := (f State.reset).withFetchWord 16 w

/-- The step answers a next state that passes a check. -/
def after (s : State) (p : State → Bool) : Bool :=
  match step s with
  | .next t => p t
  | .fault _ => false
  | .refused _ => false

/-- A host move answers a next state that passes a check. -/
def afterHost (m : HostMove) (s : State) (p : State → Bool) : Bool :=
  match hostMove m s with
  | .next t => p t
  | .fault _ => false
  | .refused _ => false

/-- Fault entry as a check: cause, info, HALTED, `pc` kept. -/
def faulted (s : State) (cause : FaultCause) (info : Word) (t : State) : Bool :=
  t.run == .halted && t.faultCause == cause && t.faultInfo == info && t.pc == s.pc

/-- The state waiting for a key for `Vx`. -/
def waiting (x : RegIdx) : State := State.reset.awaitKey x

/-- A halted state. -/
def halted : State := State.reset.raise (.decodeError 0x8128)

/-! ### Well-formedness: the one check of the syntax, refused and accepted -/

theorem test_wf_refuses_sys_cls : Instr.wf (.sys 0x0E0) = false := by decide
theorem test_wf_refuses_sys_ret : Instr.wf (.sys 0x0EE) = false := by decide
theorem test_wf_accepts_sys : Instr.wf (.sys 0x1E0) = true := by decide

/-! ### Decoding: a word of each row, written out nibble by nibble from the encoding (30_encoding.md R75) -/

theorem decode_cls : decodeBytes [0b0000_0000, 0b1110_0000] = .instr .cls [] := by decide
theorem decode_ret : decodeBytes [0b0000_0000, 0b1110_1110] = .instr .ret [] := by decide
theorem decode_sys : decodeBytes [0b0000_0001, 0b1110_0000] = .instr (.sys 0x1E0) [] := by decide
theorem decode_jp : decodeBytes [0b0001_0001, 0b0010_0011] = .instr (.jp 0x123) [] := by decide
theorem decode_call : decodeBytes [0b0010_0011, 0b0000_0001] = .instr (.call 0x301) [] := by decide
theorem decode_seByte : decodeBytes [0b0011_1010, 0b0100_0010] = .instr (.seByte 0xA 0x42) [] := by decide
theorem decode_sneByte : decodeBytes [0b0100_1010, 0b0100_0010] = .instr (.sneByte 0xA 0x42) [] := by decide
theorem decode_seReg : decodeBytes [0b0101_0001, 0b0010_1111] = .instr (.seReg 1 2) [] := by decide
theorem decode_ldByte : decodeBytes [0b0110_1010, 0b1111_1110] = .instr (.ldByte 0xA 0xFE) [] := by decide
theorem decode_addByte : decodeBytes [0b0111_1010, 0b0000_0001] = .instr (.addByte 0xA 0x01) [] := by decide
theorem decode_ldReg : decodeBytes [0b1000_0001, 0b0010_0000] = .instr (.ldReg 1 2) [] := by decide
theorem decode_orReg : decodeBytes [0b1000_0001, 0b0010_0001] = .instr (.orReg 1 2) [] := by decide
theorem decode_andReg : decodeBytes [0b1000_0001, 0b0010_0010] = .instr (.andReg 1 2) [] := by decide
theorem decode_xorReg : decodeBytes [0b1000_0001, 0b0010_0011] = .instr (.xorReg 1 2) [] := by decide
theorem decode_addReg : decodeBytes [0b1000_0001, 0b0010_0100] = .instr (.addReg 1 2) [] := by decide
theorem decode_subReg : decodeBytes [0b1000_0001, 0b0010_0101] = .instr (.subReg 1 2) [] := by decide
theorem decode_shr : decodeBytes [0b1000_0001, 0b0010_0110] = .instr (.shr 1 2) [] := by decide
theorem decode_subnReg : decodeBytes [0b1000_0001, 0b0010_0111] = .instr (.subnReg 1 2) [] := by decide
theorem decode_shl : decodeBytes [0b1000_0001, 0b0010_1110] = .instr (.shl 1 2) [] := by decide
theorem decode_sneReg : decodeBytes [0b1001_1010, 0b0101_0111] = .instr (.sneReg 0xA 5) [] := by decide
theorem decode_ldI : decodeBytes [0b1010_0001, 0b0010_0011] = .instr (.ldI 0x123) [] := by decide
theorem decode_jpV0 : decodeBytes [0b1011_0000, 0b0001_0010] = .instr (.jpV0 0x012) [] := by decide
theorem decode_rnd : decodeBytes [0b1100_0001, 0b0000_1111] = .instr (.rnd 1 0x0F) [] := by decide
theorem decode_drw : decodeBytes [0b1101_0001, 0b0010_0011] = .instr (.drw 1 2 3) [] := by decide
theorem decode_skp : decodeBytes [0b1110_0001, 0b1001_1110] = .instr (.skp 1) [] := by decide
theorem decode_sknp : decodeBytes [0b1110_0001, 0b1010_0001] = .instr (.sknp 1) [] := by decide
theorem decode_ldVxDT : decodeBytes [0b1111_0001, 0b0000_0111] = .instr (.ldVxDT 1) [] := by decide
theorem decode_ldVxK : decodeBytes [0b1111_0011, 0b0000_1010] = .instr (.ldVxK 3) [] := by decide
theorem decode_ldDTVx : decodeBytes [0b1111_0001, 0b0001_0101] = .instr (.ldDTVx 1) [] := by decide
theorem decode_ldSTVx : decodeBytes [0b1111_0001, 0b0001_1000] = .instr (.ldSTVx 1) [] := by decide
theorem decode_addI : decodeBytes [0b1111_0001, 0b0001_1110] = .instr (.addI 1) [] := by decide
theorem decode_ldF : decodeBytes [0b1111_0001, 0b0010_1001] = .instr (.ldF 1) [] := by decide
theorem decode_ldB : decodeBytes [0b1111_0001, 0b0011_0011] = .instr (.ldB 1) [] := by decide
theorem decode_stRegs : decodeBytes [0b1111_0011, 0b0101_0101] = .instr (.stRegs 3) [] := by decide
theorem decode_ldRegs : decodeBytes [0b1111_0011, 0b0110_0101] = .instr (.ldRegs 3) [] := by decide

/-- Words that no instruction has (T7), one byte alone, and bytes after the word left in place. -/
theorem decode_illegal :
    decodeTableWord 16 0x8128 = none ∧ decodeTableWord 16 0x8FFD = none ∧ decodeTableWord 16 0xE19F = none ∧
    decodeTableWord 16 0xE09D = none ∧ decodeTableWord 16 0xF100 = none ∧ decodeTableWord 16 0xF064 = none := by decide
theorem decode_bytes : decodeBytes [0x11] = .truncated ∧ decodeBytes [0x12, 0x34, 0x56] = .instr (.jp 0x234) [0x56] := by
  decide

/-! ### One step of each instruction (T1 to T6) -/

theorem test_sys : after (boot 0x01E0 fun s => s.setFb (Framebuffer.flip s.fb 0 0))
    (fun t => t.pc == 0x202 && t.pixel 0 0) = true := by decide
theorem test_ret : after (boot 0x00EE fun s => s.push 0x206)
    (fun t => t.pc == 0x206 && t.sp == 16 && t.slot 15 == 0) = true := by decide
theorem test_ret_empty : after (boot 0x00EE) (fun t => faulted (boot 0x00EE) .stackUnderflow 0 t && t.sp == 16) = true := by
  decide
theorem test_jp : after (boot 0x1123) (fun t => t.pc == 0x123) = true := by decide
theorem test_call : after (boot 0x2300) (fun t => t.pc == 0x300 && t.sp == 15 && t.slot 15 == 0x202) = true := by decide
theorem test_call_full : after (boot 0x2300 fun s => { s with sp := 0 })
    (fun t => faulted (boot 0x2300) .stackOverflow 0 t && t.sp == 0 && t.slot 15 == 0) = true := by decide
theorem test_seByte : after (boot 0x3A42 fun s => s.setReg 0xA 0x42) (fun t => t.pc == 0x204) = true := by decide
theorem test_sneByte : after (boot 0x4A42 fun s => s.setReg 0xA 0x42) (fun t => t.pc == 0x202) = true := by decide
theorem test_seReg : after (boot 0x5120 fun s => (s.setReg 1 7).setReg 2 8) (fun t => t.pc == 0x202) = true := by decide
theorem test_sneReg : after (boot 0x9120 fun s => (s.setReg 1 7).setReg 2 8) (fun t => t.pc == 0x204) = true := by decide
theorem test_skip_at_top : after (boot 0x3000 fun s => s.jump 0xFFC)
    (fun t => t.pc == 0x1000 && t.run == .running) = true := by decide
theorem test_jpV0 : after (boot 0xB012 fun s => s.setReg 0 1) (fun t => t.pc == 0x013) = true := by decide
theorem test_jpV0_outside : after (boot 0xBF02 fun s => s.setReg 0 0xFF)
    (fun t => faulted (boot 0xBF02) .addressOutOfRange 0x1001 t) = true := by decide
theorem test_ldByte : after (boot 0x6AFF) (fun t => t.reg 0xA == 0xFF && t.pc == 0x202) = true := by decide
theorem test_addByte_wraps : after (boot 0x7A01 fun s => s.setReg 0xA 0xFF)
    (fun t => t.reg 0xA == 0 && t.reg 15 == 0) = true := by decide
theorem test_ldReg : after (boot 0x8120 fun s => (s.setReg 1 1).setReg 2 0x55)
    (fun t => t.reg 1 == 0x55 && t.reg 2 == 0x55) = true := by decide
theorem test_orReg : after (boot 0x8121 fun s => ((s.setReg 1 0x0F).setReg 2 0xF0).setReg 15 1)
    (fun t => t.reg 1 == 0xFF && t.reg 15 == 1) = true := by decide
theorem test_andReg : after (boot 0x8122 fun s => ((s.setReg 1 0x3C).setReg 2 0x0F).setReg 15 1)
    (fun t => t.reg 1 == 0x0C && t.reg 15 == 1) = true := by decide
theorem test_xorReg : after (boot 0x8123 fun s => ((s.setReg 1 0xFF).setReg 2 0x0F).setReg 15 1)
    (fun t => t.reg 1 == 0xF0 && t.reg 15 == 1) = true := by decide
theorem test_addReg_carries : after (boot 0x8124 fun s => (s.setReg 1 200).setReg 2 100)
    (fun t => t.reg 1 == 44 && t.reg 15 == 1) = true := by decide
theorem test_addReg_into_VF : after (boot 0x8F14 fun s => (s.setReg 15 200).setReg 1 100)
    (fun t => t.reg 15 == 0x2C) = true := by decide
theorem test_subReg_wraps : after (boot 0x8125 fun s => (s.setReg 1 5).setReg 2 10)
    (fun t => t.reg 1 == 0xFB && t.reg 15 == 0) = true := by decide
theorem test_subReg_equal : after (boot 0x8125 fun s => ((s.setReg 1 7).setReg 2 7).setReg 15 1)
    (fun t => t.reg 1 == 0 && t.reg 15 == 0) = true := by decide
theorem test_shr : after (boot 0x8126 fun s => (s.setReg 1 9).setReg 2 0xFF)
    (fun t => t.reg 1 == 4 && t.reg 15 == 1 && t.reg 2 == 0xFF) = true := by decide
theorem test_subnReg : after (boot 0x8127 fun s => (s.setReg 1 5).setReg 2 10)
    (fun t => t.reg 1 == 5 && t.reg 15 == 1) = true := by decide
theorem test_shl : after (boot 0x812E fun s => (s.setReg 1 0x89).setReg 2 0xFF)
    (fun t => t.reg 1 == 0x12 && t.reg 15 == 1 && t.reg 2 == 0xFF) = true := by decide
theorem test_ldI : after (boot 0xA123) (fun t => t.I == 0x123 && t.pc == 0x202) = true := by decide
theorem test_addI_wraps : after (boot 0xF11E fun s => (s.setI 0xFF80).setReg 1 0xFF)
    (fun t => t.I == 0x007F && t.reg 15 == 0) = true := by decide
theorem test_ldF : after (boot 0xF129 fun s => s.setReg 1 0xFA) (fun t => t.I == 0x0032) = true := by decide
theorem test_ldB : after (boot 0xF133 fun s => (s.setReg 1 156).setI 0x300)
    (fun t => t.readBytes 0x300 3 == [1, 5, 6] && t.I == 0x300) = true := by decide
theorem test_ldB_outside : after (boot 0xF133 fun s => (s.setReg 1 255).setI 0xFFE)
    (fun t => faulted (boot 0xF133) .addressOutOfRange 0x1000 t && t.readByte 0xFFE == 0) = true := by decide
theorem test_stRegs : after (boot 0xF355 fun s => ((s.setReg 3 3).setI 10).writeBytes 13 [0x77, 0x77])
    (fun t => t.readBytes 10 5 == [0, 0, 0, 3, 0x77] && t.I == 10 && t.pc == 0x202) = true := by decide
theorem test_stRegs_over_code : after (boot 0xF255 fun s => (((s.setReg 0 0x12).setReg 1 0x34).setReg 2 0x56).setI 0x1FF)
    (fun t => t.readBytes 0x1FF 3 == [0x12, 0x34, 0x56]) = true := by decide
theorem test_ldRegs : after (boot 0xF265 fun s => ((s.setReg 3 0x99).setI 0x300).writeBytes 0x300 [1, 2, 3, 4])
    (fun t => t.reg 0 == 1 && t.reg 1 == 2 && t.reg 2 == 3 && t.reg 3 == 0x99) = true := by decide
theorem test_ldRegs_outside : after (boot 0xF165 fun s => (s.setI 0xFFF).setReg 0 9)
    (fun t => faulted (boot 0xF165) .addressOutOfRange 0x1000 t && t.reg 0 == 9) = true := by decide
theorem test_rnd_draws : after (boot 0xC10F) (fun t => t.rng.draws == 1 && t.pc == 0x202) = true := by decide
theorem test_rnd_masks (s : State) : ∃ t, exec (.rnd 1 0) s = .next t ∧ t.reg 1 = 0 := ⟨_, rfl, by simp⟩
theorem test_skp : after (boot 0xE19E fun s => (s.setReg 1 0x15).setKey 5 true) (fun t => t.pc == 0x204) = true := by
  decide
theorem test_sknp : after (boot 0xE1A1 fun s => (s.setReg 1 0xF5).setKey 5 true) (fun t => t.pc == 0x202) = true := by
  decide
theorem test_ldVxDT : after (boot 0xF107 fun s => s.setDT 0x2A) (fun t => t.reg 1 == 0x2A && t.DT == 0x2A) = true := by
  decide
theorem test_ldVxK : after (boot 0xFF0A fun s => s.setKey 2 true)
    (fun t => t.run == .awaitingKey && t.kx == 15 && t.pc == 0x200) = true := by decide
theorem test_ldDTVx : after (boot 0xF115 fun s => s.setReg 1 0x3C) (fun t => t.DT == 60 && t.ST == 0) = true := by decide
theorem test_ldSTVx : after (boot 0xF118 fun s => s.setReg 1 2) (fun t => t.ST == 2 && t.DT == 0) = true := by decide
theorem test_cls : after (boot 0x00E0 fun s => (s.setFb (Framebuffer.flip s.fb 31 63)).setReg 15 1)
    (fun t => !(t.pixel 31 63) && t.reg 15 == 1 && t.pc == 0x202) = true := by decide
theorem test_drw_wraps : after
    (boot 0xD011 fun s => (((s.setReg 0 62).setReg 1 31).setI 0x300).writeBytes 0x300 [0xF0])
    (fun t => t.pixel 31 62 && t.pixel 31 63 && t.pixel 31 0 && t.pixel 31 1 && !(t.pixel 31 2) &&
      !(t.pixel 0 0) && t.reg 15 == 0) = true := by decide
theorem test_drw_collides : after
    (boot 0xD011 fun s => ((s.setFb (Framebuffer.flip s.fb 0 1)).setI 0x300).writeBytes 0x300 [0xC0])
    (fun t => t.pixel 0 0 && !(t.pixel 0 1) && t.reg 15 == 1) = true := by decide

/-! ### The step and the host's moves (T1, T5, T7) -/

theorem test_fetch_outside : after (State.reset.jump 0x1002)
    (fun t => faulted (State.reset.jump 0x1002) .addressOutOfRange 0x1002 t) = true := by decide
theorem test_illegal_word : after (boot 0x8128) (fun t => faulted (boot 0x8128) .decodeError 0x8128 t) = true := by decide
theorem test_halted_report : stepReport halted = some (.halted .decodeError 0x8128) := by decide
theorem test_tick : afterHost .tickTimers (State.reset.setDT 2) (fun t => t.DT == 1 && t.ST == 0) = true := by decide
theorem test_keyDown_ends_wait : afterHost (.keyDown 7) (waiting 3)
    (fun t => t.keyDown? 7 && t.reg 3 == 7 && t.pc == 0x202 && t.kx == 0 && t.run == .running) = true := by decide
theorem test_keyUp_does_not : afterHost (.keyUp 7) ((waiting 3).setKey 7 true)
    (fun t => !(t.keyDown? 7) && t.run == .awaitingKey) = true := by decide
theorem test_host_writes_word : afterHost (.memWriteWord 0x200 0x1234) State.reset
    (fun t => t.readByte 0x200 == 0x12 && t.readByte 0x201 == 0x34) = true := by decide
theorem test_host_reads_word :
    hostReply (.memReadWord 0x200) (State.reset.writeBytes 0x200 [0xAB, 0xCD]) = some (.word 0xABCD) := by decide
theorem test_host_outside : hostMove (.memWriteWord 0xFFF 1) State.reset = .fault (.hostNoMove 0x1000) := rfl
theorem test_host_reset : afterHost .reset (((halted.setReg 4 9).setKey 4 true).writeBytes 0x300 [5])
    (fun t => t.run == .running && t.faultCause == .none && t.reg 4 == 0 && t.keyDown? 4 && t.mem == []) = true := by
  decide

/-! ### Witnesses: for each statement with hypotheses, states that meet them, clause by clause

`Obligations.<Name>` has `witness_<Name>`. A clause's boundary values stand in it. -/

/-- A state that meets the invariant with something in every part: one frame on the stack, a program, a register. -/
def framed : State := ((boot 0x00EE fun s => s.push 0x206).setReg 3 7)

theorem inv_framed : framed.Inv :=
  ⟨by decide, by decide, by decide, by decide, by decide, by decide, by decide, by decide, by decide, by decide⟩

theorem inv_waiting : (waiting 3).Inv :=
  ⟨by decide, by decide, by decide, by decide, by decide, by decide, by decide, by decide, by decide, by decide⟩

theorem witness_EveryStepKeepsTheInvariant : framed.Inv ∧ ∃ t, step framed = .next t ∧ t.pc.toNat = 0x206 :=
  ⟨inv_framed, _, rfl, by decide⟩

theorem witness_EveryHostMoveKeepsTheInvariant :
    (waiting 3).Inv ∧ (∃ t, hostMove (.keyDown 7) (waiting 3) = .next t) ∧
    framed.Inv ∧ ∃ t, hostMove (.memWriteByte 0xFFF 1) framed = .next t :=
  ⟨inv_waiting, ⟨_, rfl⟩, inv_framed, _, rfl⟩

/-- A program of a CALL to 0x204 and a RET there, written by the host into the fresh machine. -/
def called : State := ((((State.reset.writeBytes 0x200 [0x22, 0x04]).writeBytes 0x204 [0x00, 0xEE]).push 0x202).jump 0x204)

theorem reachable_called : Reachable called :=
  .move (s := (State.reset.writeBytes 0x200 [0x22, 0x04]).writeBytes 0x204 [0x00, 0xEE]) .step
    (.move (.host (.memWriteWord 0x204 0x00EE)) (.move (.host (.memWriteWord 0x200 0x2204)) .reset rfl) rfl) rfl

/-- Dead and live slots and a RET in reach. -/
theorem witness_ReachableStatesAreWellFormed :
    Reachable called ∧ 14 < called.sp ∧ called.sp ≤ 15 ∧ 15 < called.stackCapacity ∧ called.run = .running ∧
    called.pc.toNat ≤ 0xFFE ∧ decodeWord called.fetchWord = .instr .ret ∧
    ∃ t, step called = .next t ∧ t.run = .running :=
  ⟨reachable_called, by decide, by decide, by decide, by decide, by decide, by decide, _, rfl, by decide⟩

/-- A jump, a call and a jump with offset in reach, each completing in RUNNING. -/
theorem witness_ReachableStatesAreWellFormed_jumps :
    (Reachable (State.reset.writeBytes 0x200 [0x1F, 0xFF]) ∧
      decodeWord (State.reset.writeBytes 0x200 [0x1F, 0xFF]).fetchWord = .instr (.jp 0xFFF) ∧
      after (State.reset.writeBytes 0x200 [0x1F, 0xFF]) (fun t => t.run == .running) = true) ∧
    (Reachable (State.reset.writeBytes 0x200 [0x2F, 0xFF]) ∧
      decodeWord (State.reset.writeBytes 0x200 [0x2F, 0xFF]).fetchWord = .instr (.call 0xFFF) ∧
      after (State.reset.writeBytes 0x200 [0x2F, 0xFF]) (fun t => t.run == .running) = true) ∧
    (Reachable (State.reset.writeBytes 0x200 [0xBF, 0xFF]) ∧
      decodeWord (State.reset.writeBytes 0x200 [0xBF, 0xFF]).fetchWord = .instr (.jpV0 0xFFF) ∧
      after (State.reset.writeBytes 0x200 [0xBF, 0xFF]) (fun t => t.run == .running) = true) :=
  ⟨⟨.move (.host (.memWriteWord 0x200 0x1FFF)) .reset rfl, by decide, by decide⟩,
    ⟨.move (.host (.memWriteWord 0x200 0x2FFF)) .reset rfl, by decide, by decide⟩,
    .move (.host (.memWriteWord 0x200 0xBFFF)) .reset rfl, by decide, by decide⟩

theorem witness_DecodeOfEncodeIsTheInstruction :
    Instr.wf (.sys 0x0DF) = true ∧ Instr.wf (.sys 0x0EF) = true ∧ Instr.wf (.drw 15 15 15) = true := by decide

/-- A word outside and words inside families 5 and 9, the latter with a low nibble that is dropped. -/
theorem witness_EncodeOfDecodeIsTheWord :
    (decodeWord 0xD12F = .instr (.drw 1 2 15) ∧ fieldF 0xD12F ≠ 5 ∧ fieldF 0xD12F ≠ 9) ∧
    (decodeWord 0x512F = .instr (.seReg 1 2) ∧ fieldF 0x512F = 5) ∧
    (decodeWord 0x9FFF = .instr (.sneReg 15 15) ∧ fieldF 0x9FFF = 9) := by decide

/-- A word in each of the three illegal sets, and a word that is in none. -/
theorem witness_IllegalWordsAreExactlyThese :
    decodeWord 0x812F = .illegal 0x812F ∧ decodeWord 0xE19F = .illegal 0xE19F ∧
    decodeWord 0xF164 = .illegal 0xF164 ∧ decodeWord 0x8127 ≠ .illegal 0x8127 := by decide

theorem witness_DecodedWordsHaveTheirRowsBits :
    decodeWord 0x812E = .instr (.shl 1 2) ∧ decodeWord 0x00E1 = .instr (.sys 0x0E1) := by decide

/-- Also at the last word of memory. -/
theorem witness_StepRunsTheDecodedInstruction :
    let s := boot 0x6A7F fun s => s.jump 0xFFE
    s.run = .running ∧ s.pc.toNat ≤ 0xFFE ∧
    decodeBytes [s.readByte s.pc.toNat, s.readByte (s.pc.toNat + 1)] = .instr (.ldByte 0xA 0x7F) [] := by decide

theorem witness_FetchOutOfRangeFaults :
    (State.reset.jump 0xFFF).run = .running ∧ 0xFFE < (State.reset.jump 0xFFF).pc.toNat ∧
    0xFFF < (State.reset.jump 0x1000).pc.toNat := by decide

theorem witness_IllegalWordTakesDecodeError :
    let s := boot 0xF175 fun s => s.jump 0xFFE
    s.run = .running ∧ s.pc.toNat ≤ 0xFFE ∧ s.readByte s.pc.toNat = Word.hiByte 0xF175 ∧
    s.readByte (s.pc.toNat + 1) = Word.loByte 0xF175 ∧ decodeWord 0xF175 = .illegal 0xF175 := by decide

theorem witness_StepOutsideRunningDoesNothing : halted.run = .halted ∧ (waiting 3).run = .awaitingKey := by decide

/-- In RUNNING, a step of each report. -/
theorem witness_StepIsTotalAndReports :
    stepReport (boot 0x00EE) = some (.faulted .stackUnderflow 0) ∧ stepReport (boot 0xF30A) = some .awaitingInput ∧
    stepReport (boot 0x1200) = some .ok ∧ (boot 0x1200).run = .running := by decide

/-- A step from RUNNING into HALTED from each place that raises a fault, at the first value that does. -/
theorem witness_faults :
    (State.reset.jump 0xFFF).run = .running ∧
    after (State.reset.jump 0xFFF) (fun t => t.run == .halted && t.faultInfo == 0x1000) = true ∧
    after (boot 0x812F) (fun t => t.run == .halted && t.faultCause == .decodeError) = true ∧
    after (boot 0x2300 fun s => { s with sp := 0 }) (fun t => t.run == .halted && t.faultCause == .stackOverflow) = true ∧
    after (boot 0x00EE) (fun t => t.run == .halted && t.faultCause == .stackUnderflow) = true ∧
    after (boot 0xBFFF fun s => s.setReg 0 1) (fun t => t.run == .halted && t.faultInfo == 0x1000) = true ∧
    after (boot 0xD012 fun s => s.setI 0xFFF) (fun t => t.run == .halted && t.faultInfo == 0x1000) = true ∧
    after (boot 0xF133 fun s => s.setI 0xFFE) (fun t => t.run == .halted && t.faultInfo == 0x1000) = true ∧
    after (boot 0xFF55 fun s => s.setI 0xFF1) (fun t => t.run == .halted && t.faultInfo == 0x1000) = true ∧
    after (boot 0xF065 fun s => s.setI 0xFFFF) (fun t => t.run == .halted && t.faultInfo == 0xFFFF) = true := by decide

theorem witness_FaultsArePrecise :
    ∃ t, (boot 0x00EE).run = .running ∧ step (boot 0x00EE) = .next t ∧ t.run = .halted :=
  ⟨_, by decide, rfl, by decide⟩

theorem witness_FaultsComeFromTheirPlacesOnly :
    ∃ t, (boot 0xFF55 fun s => s.setI 0xFF1).run = .running ∧ step (boot 0xFF55 fun s => s.setI 0xFF1) = .next t ∧
      t.run = .halted :=
  ⟨_, by decide, rfl, by decide⟩

theorem witness_HaltedIsLeftByResetOnly :
    halted.run = .halted ∧ (∃ t, act .step halted = .next t) ∧ (∃ t, act (.host (.keyDown 1)) halted = .next t) ∧
    (∃ t, act (.host .reset) halted = .next t) ∧ Move.step ≠ .host .reset ∧ Move.host (.keyDown 1) ≠ .host .reset :=
  ⟨by decide, ⟨_, rfl⟩, ⟨_, rfl⟩, ⟨_, rfl⟩, by decide, by decide⟩

/-- A move of each of the four kinds that changes the run state. -/
theorem witness_RunStateChangesAreTheTables :
    (∃ t, act (.host .reset) halted = .next t ∧ t.run ≠ halted.run) ∧
    (∃ t, act (.host (.keyDown 7)) (waiting 3) = .next t ∧ t.run ≠ (waiting 3).run) ∧
    (∃ t, act .step (boot 0x00EE) = .next t ∧ t.run ≠ (boot 0x00EE).run) ∧
    ∃ t, act .step (boot 0xF30A) = .next t ∧ t.run ≠ (boot 0xF30A).run :=
  ⟨⟨_, rfl, by decide⟩, ⟨_, rfl, by decide⟩, ⟨_, rfl, by decide⟩, _, rfl, by decide⟩

/-- The empty stack, one entry, and the full stack. -/
theorem witness_RetPopsOrUnderflows :
    State.reset.sp = State.reset.stackCapacity ∧ framed.sp < framed.stackCapacity ∧ framed.sp = 15 ∧
    ({ State.reset with sp := 0 } : State).sp < ({ State.reset with sp := 0 } : State).stackCapacity := by decide

/-- The full stack, the last free slot, and the empty stack. -/
theorem witness_CallPushesOrOverflows :
    (let s : State := { State.reset with sp := 0 }; s.sp ≤ s.stackCapacity ∧ s.sp = 0) ∧
    (let s : State := { State.reset with sp := 1 }; s.sp ≤ s.stackCapacity ∧ s.sp ≠ 0) ∧
    State.reset.sp ≤ State.reset.stackCapacity ∧ State.reset.sp ≠ 0 := by decide

/-- Something ran between CALL and RET: another register and another `pc`. -/
theorem witness_CallThenRetReturns :
    State.reset.sp ≤ State.reset.stackCapacity ∧ State.reset.sp ≠ 0 ∧
    ∃ t, exec (.call 0x300) State.reset = .next t ∧
      ((t.setReg 5 9).jump 0x344).sp = t.sp ∧ ((t.setReg 5 9).jump 0x344).stack = t.stack :=
  ⟨by decide, by decide, _, rfl, rfl, rfl⟩

/-- Only the low nibble names the key. -/
theorem witness_KeySkipsMovePcOnly : ((5 : KeyIdx)).val = ((State.reset.setReg 1 0x15).reg 1).toNat % 16 := by decide

/-- The last target in memory and the first outside. -/
theorem witness_JpV0JumpsOrFaults :
    ((State.reset.setReg 0 0xFF).reg 0).toNat + (0xF00 : Addr12).toNat ≤ 0xFFF ∧
    0xFFF < ((State.reset.setReg 0 0xFF).reg 0).toNat + (0xF01 : Addr12).toNat := by decide

/-- An instruction of each policy that takes no fault. -/
theorem witness_PcPolicyOfEveryInstruction :
    State.reset.run = .running ∧
    (∃ t, exec (.call 0x300) State.reset = .next t ∧ t.run ≠ .halted) ∧
    (∃ t, exec (.jpV0 0xFFF) State.reset = .next t ∧ t.run ≠ .halted) ∧
    (∃ t, exec .ret framed = .next t ∧ t.run ≠ .halted) ∧
    (∃ t, exec (.ldVxK 3) State.reset = .next t ∧ t.run ≠ .halted) ∧
    (∃ t, exec (.seByte 0 0) State.reset = .next t ∧ t.run ≠ .halted) ∧
    ∃ t, exec (.drw 0 1 15) State.reset = .next t ∧ t.run ≠ .halted :=
  ⟨by decide, ⟨_, rfl, by decide⟩, ⟨_, rfl, by decide⟩, ⟨_, rfl, by decide⟩, ⟨_, rfl, by decide⟩, ⟨_, rfl, by decide⟩,
    _, rfl, by decide⟩

/-- The flag changed as a flag, and VF changed as a destination. -/
theorem witness_OnlySixInstructionsWriteVFAsAFlag :
    (∃ t, exec (.shr 1 0) (State.reset.setReg 1 1) = .next t ∧ t.reg 15 ≠ (State.reset.setReg 1 1).reg 15) ∧
    ∃ t, exec (.ldByte 15 1) State.reset = .next t ∧ t.reg 15 ≠ State.reset.reg 15 :=
  ⟨⟨_, rfl, by decide⟩, _, rfl, by decide⟩

/-- Clauses of AddSetsCarry, SubtractionsSetStrictGreater and ShiftsMoveOneBitOut that ask for `x` other than VF. -/
theorem witness_FlagIsSeenBelowVF : ((14 : RegIdx)).val ≠ 15 := by decide

/-- The default FONT_BASE and the largest. -/
theorem witness_LdFPointsAtTheGlyph :
    State.reset.fontBase.toNat + 16 * 5 ≤ 0x200 ∧
    ({ State.reset with fontBase := 0x1B0 } : State).fontBase.toNat + 16 * 5 = 0x200 := by decide

/-- The last three bytes of memory, one further, and an `I` outside. -/
theorem witness_LdBStoresThreeDigits :
    (State.reset.setI 0xFFD).I.toNat + 2 ≤ 0xFFF ∧ 0xFFF < (State.reset.setI 0xFFE).I.toNat + 2 ∧
    0xFFF < (State.reset.setI 0xFFFF).I.toNat + 2 := by decide

/-- Sixteen bytes that end at 0xFFF, and one address further; below, one byte at 0xFFF and two. -/
theorem witness_StoreWritesV0ToVx : (State.reset.setI 0xFF0).I.toNat + (15 : RegIdx).val ≤ 0xFFF ∧
    0xFFF < (State.reset.setI 0xFF1).I.toNat + (15 : RegIdx).val := by decide
theorem witness_LoadReadsV0ToVx : (State.reset.setI 0xFFF).I.toNat + (0 : RegIdx).val ≤ 0xFFF ∧
    0xFFF < (State.reset.setI 0xFFF).I.toNat + (1 : RegIdx).val := by decide

/-- Another register file and `pc` at the load. -/
theorem witness_StoreThenLoadGivesTheRegistersBack :
    (State.reset.setI 0xFF0).I.toNat + (15 : RegIdx).val ≤ 0xFFF ∧
    ∃ t, exec (.stRegs 15) (State.reset.setI 0xFF0) = .next t ∧
      (∀ a, ((t.setReg 5 9).jump 0x344).readByte a = t.readByte a) ∧ ((t.setReg 5 9).jump 0x344).I = t.I :=
  ⟨by decide, _, rfl, fun _ => rfl, rfl⟩

/-- The store reaches either byte of the next instruction. -/
theorem witness_StoredBytesAreFetched :
    let s := State.reset.setI 0x1FF
    s.I.toNat + (4 : RegIdx).val ≤ 0xFFF ∧ (3 : RegIdx).val ≤ (4 : RegIdx).val ∧
    ∃ t, exec (.stRegs 4) s = .next t ∧ s.I.toNat + (3 : RegIdx).val = t.pc.toNat ∧
      s.I.toNat + (4 : RegIdx).val = t.pc.toNat + 1 :=
  ⟨by decide, by decide, _, rfl, by decide, by decide⟩

theorem witness_RndDrawsOneMaskedByte :
    State.reset.rng = { seed := 0, draws := 0 } ∧ State.reset.advanceRng.rng = { seed := 0, draws := 1 } := by decide

theorem witness_KeyEventsSetTheLatchAndEndTheWait :
    (waiting 15).run = .awaitingKey ∧ State.reset.run ≠ .awaitingKey ∧ halted.run ≠ .awaitingKey ∧
    (3 : KeyIdx) ≠ 7 := by decide

/-- A wait with steps, ticks, a release and a read in it. -/
theorem witness_OnlyAKeyDownOrResetEndsTheWait :
    let ms : List Move := [.step, .host .tickTimers, .host (.keyUp 7), .host (.memReadByte 0xFFF), .step]
    (waiting 3).run = .awaitingKey ∧ (∃ t, runMoves ms (waiting 3) = .next t) ∧
    ∀ m ∈ ms, m ≠ .host .reset ∧ ∀ k, m ≠ .host (.keyDown k) := by
  refine ⟨by decide, ⟨_, rfl⟩, ?_⟩
  decide

/-- A program at its self-jump, stepped, ticked and given a key. -/
theorem witness_SelfJumpStaysPut :
    let ms : List Move := [.step, .host .tickTimers, .host (.keyDown 7), .host .status, .step]
    (boot 0x1200).AtSelfJump ∧ (∃ t, runMoves ms (boot 0x1200) = .next t) ∧
    ∀ m ∈ ms, m ≠ .host .reset ∧ (∀ a b, m ≠ .host (.memWriteByte a b)) ∧
      ∀ a v, m ≠ .host (.memWriteWord a v) := by
  refine ⟨⟨by decide, by decide, 0x200, by decide, by decide⟩, ⟨_, rfl⟩, ?_⟩
  simp

/-- The state of S10: an all-ones row at `I`. -/
def onesAt (a : Word) : State := (State.reset.setI a).writeBytes a.toNat [0xFF]

/-- The most rows at the top of memory, no row with `I` outside; a covered pixel, clear and set, and one not covered. -/
theorem witness_DrwInvertsThePixelsUnderTheSprite :
    (State.reset.setI 0xFF1).I.toNat + (15 : Fin 16).val - 1 ≤ 0xFFF ∧ ((0 : Fin 16).val = 0) ∧
    (onesAt 0xFFF).I.toNat + (1 : Fin 16).val - 1 ≤ 0xFFF ∧ SpriteCovers (onesAt 0xFFF) 0 1 1 0 7 ∧
    ¬ SpriteCovers (onesAt 0xFFF) 0 1 1 0 8 ∧ (onesAt 0xFFF).pixel 0 7 = false ∧
    ((onesAt 0xFFF).setFb (Framebuffer.flip Framebuffer.blank 0 7)).pixel 0 7 = true := by
  refine ⟨by decide, rfl, by decide, ⟨0, 7, by decide, by decide, by decide, by decide, by decide⟩, ?_, by decide, by decide⟩
  rintro ⟨r, c, _, hc, _, hcol, _⟩
  have : (0 + c) % 64 = 8 := hcol
  omega

/-- Both hypotheses on the collision: none on the blank display, one when the pixel is set. -/
theorem witness_DrwInvertsThePixelsUnderTheSprite_collision :
    (¬ ∃ row col, SpriteCovers (onesAt 0x300) 0 1 1 row col ∧ (onesAt 0x300).pixel row col = true) ∧
    (let s := (onesAt 0x300).setFb (Framebuffer.flip Framebuffer.blank 0 7)
      ∃ row col, SpriteCovers s 0 1 1 row col ∧ s.pixel row col = true) := by
  constructor
  · rintro ⟨row, col, _, h⟩
    have hb : (onesAt 0x300).pixel row col = false := by
      show (Framebuffer.blank)[row][col] = false
      simp [Framebuffer.blank]
    rw [hb] at h
    cases h
  · exact ⟨0, 7, ⟨0, 7, by decide, by decide, by decide, by decide, by decide⟩, by decide⟩

theorem witness_DrwOutOfRangeDrawsNothing :
    0 < (2 : Fin 16).val ∧ 0xFFF < (State.reset.setI 0xFFF).I.toNat + (2 : Fin 16).val - 1 ∧
    0 < (1 : Fin 16).val ∧ 0xFFF < (State.reset.setI 0x1000).I.toNat + (1 : Fin 16).val - 1 := by decide

theorem witness_DrwTwiceRestoresTheFramebuffer :
    (0 : RegIdx).val ≠ 15 ∧ (14 : RegIdx).val ≠ 15 ∧
    ((1 : Fin 16).val = 0 ∨ (onesAt 0xFFF).I.toNat + (1 : Fin 16).val - 1 ≤ 0xFFF) := by decide

theorem witness_EachUnitHasItsOwnWriters :
    (∃ t, exec (.ldB 1) State.reset = .next t) ∧ ∃ t, exec (.addReg 1 2) State.reset = .next t := ⟨⟨_, rfl⟩, _, rfl⟩

/-- The last word and byte, and the first addresses without one. -/
theorem witness_HostPortWritesAndReadsBigEndian :
    0xFFE ≤ 0xFFE ∧ 0xFFF ≤ 0xFFF ∧ 0xFFE < 0xFFF ∧ 0xFFF < 0x1000 ∧
    hostReply (.memReadWord 0xFFE) State.reset = some (.word 0) ∧ hostReply (.memReadWord 0xFFF) State.reset = none ∧
    hostReply (.memReadByte 0xFFF) State.reset = some (.byte 0) ∧
    hostReply (.memReadByte 0x1000) State.reset = none ∧ hostReply (.memWriteWord 0xFFF 1) State.reset = none ∧
    hostReply (.memWriteByte 0x1000 1) State.reset = none := by decide

/-- The last byte and the last word, in a memory that holds different bytes there. -/
theorem witness_HostReadsChangeNothing :
    let s := State.reset.writeBytes 0xFFE [0xAB, 0xCD]
    0xFFF ≤ 0xFFF ∧ hostReply (.memReadByte 0xFFF) s = some (.byte 0xCD) ∧
    0xFFE ≤ 0xFFE ∧ hostReply (.memReadWord 0xFFE) s = some (.word 0xABCD) := by decide

end Sys2Proof.Tests
end

section
/-! The control-flow instructions (spec 40_control_flow.md). -/

namespace Sys2Proof.Machine

/-- JP is a jump to the zero-extended `nnn` (R102). -/
theorem exec_jp (nnn : Addr12) (s : State) : exec (.jp nnn) s = .next (s.jump (widenAddr nnn)) := rfl

/-- A jump moves `pc` alone, so it keeps every general register and every part. -/
theorem State.jump_frame (s : State) (a : Word) : KeepsRegs [] s (s.jump a) ∧ KeepsParts [] s (s.jump a) :=
  ⟨KeepsRegs.of_file (s.jump_V a), KeepsParts.of_fields⟩

/-- Settles O23: JP's next state is `s.jump (widenAddr nnn)`; widening keeps the value of `nnn`. -/
theorem jpSetsPc : Obligations.JpSetsPc := by
  intro nnn s
  have target : (s.jump (widenAddr nnn)).pc.toNat = nnn.toNat := by
    rw [State.jump_pc, toNat_widenAddr]
  exact ⟨s.jump (widenAddr nnn), exec_jp nnn s, target, s.jump_frame (widenAddr nnn)⟩

end Sys2Proof.Machine
end

section
/-! The load and arithmetic instructions that write one register and no flag (spec 41_alu.md R120 to R122). -/

namespace Sys2Proof.Machine

/-- LD Vx, byte writes `kk` (R120). -/
theorem exec_ldByte (x : RegIdx) (kk : Byte) (s : State) :
    exec (.ldByte x kk) s = .next (s.setReg x kk).advance := rfl

/-- ADD Vx, byte writes the wrapped sum and no flag (R121). -/
theorem exec_addByte (x : RegIdx) (kk : Byte) (s : State) :
    exec (.addByte x kk) s = .next (s.setReg x (s.reg x + kk)).advance := rfl

/-- LD Vx, Vy writes Vy (R122). -/
theorem exec_ldReg (x y : RegIdx) (s : State) :
    exec (.ldReg x y) s = .next (s.setReg x (s.reg y)).advance := rfl

/-- The register write and `pc` increment that these instructions share: `Vx` holds `b`, and every other register and
every part is as before. -/
theorem State.setReg_advance_effect (s : State) (x : RegIdx) (b : Byte) :
    (s.setReg x b).advance.reg x = b ∧ (s.setReg x b).advance.pc = s.pc + 2 ∧
      KeepsRegs [x] s (s.setReg x b).advance ∧ KeepsParts [] s (s.setReg x b).advance := by
  have written : (s.setReg x b).advance.reg x = b := by
    rw [State.reg_advance, State.reg_setReg_same]
  have next_pc : (s.setReg x b).advance.pc = s.pc + 2 := by
    rw [State.advance_pc, State.setReg_pc]
  exact ⟨written, next_pc, KeepsRegs.of_setReg (State.advance_V _), KeepsParts.of_fields⟩

/-- Settles O30: each of the three is one register write and an advance; ADD's byte sum is the sum modulo 256. -/
theorem loadAddImmediateAndMove : Obligations.LoadAddImmediateAndMove := by
  intro x y kk s
  refine ⟨⟨_, exec_ldByte x kk s, s.setReg_advance_effect x kk⟩, ⟨_, exec_addByte x kk s, ?_⟩,
    ⟨_, exec_ldReg x y s, s.setReg_advance_effect x (s.reg y)⟩⟩
  obtain ⟨written, next_pc, regs, parts⟩ := s.setReg_advance_effect x (s.reg x + kk)
  have sum : ((s.setReg x (s.reg x + kk)).advance.reg x).toNat = ((s.reg x).toNat + kk.toNat) % 256 := by
    rw [written, BitVec.toNat_add]
  exact ⟨sum, next_pc, regs, parts⟩

end Sys2Proof.Machine
end

section
/-! The instructions that write the address register (spec 42_memory_index.md R140). -/

namespace Sys2Proof.Machine

/-- LD I, addr loads the zero-extended `nnn` into the address register (R140). -/
theorem exec_ldI (nnn : Addr12) (s : State) :
    exec (.ldI nnn) s = .next (s.setI (widenAddr nnn)).advance := rfl

/-- The write of the address register and the `pc` increment after it: `I` holds `a`, and every general register and
every part but the address register is as before. -/
theorem State.setI_advance_effect (s : State) (a : Word) :
    (s.setI a).advance.I = a ∧ (s.setI a).advance.pc = s.pc + 2 ∧
      KeepsRegs [] s (s.setI a).advance ∧ KeepsParts [.index] s (s.setI a).advance := by
  have written : (s.setI a).advance.I = a := by
    rw [State.advance_I, State.setI_I]
  have next_pc : (s.setI a).advance.pc = s.pc + 2 := by
    rw [State.advance_pc, State.setI_pc]
  have same_file : (s.setI a).advance.V = s.V := by
    rw [State.advance_V, State.setI_V]
  exact ⟨written, next_pc, KeepsRegs.of_file same_file, KeepsParts.of_fields⟩

/-- Settles O36: LD I, addr is one write of `I` and an advance; widening keeps the value of `nnn`. -/
theorem ldISetsTheAddressRegister : Obligations.LdISetsTheAddressRegister := by
  intro nnn s
  obtain ⟨written, next_pc, regs, parts⟩ := s.setI_advance_effect (widenAddr nnn)
  have loaded : (s.setI (widenAddr nnn)).advance.I.toNat = nnn.toNat := by
    rw [written, toNat_widenAddr]
  exact ⟨_, exec_ldI nnn s, loaded, next_pc, regs, parts⟩

end Sys2Proof.Machine
end

section
/-! The skips on a key and the copies between a register and a timer (spec 43_timers_random_input.md R151 to R153, R155,
R156). -/

namespace Sys2Proof.Machine

/-- SKP skips if the key the low nibble of Vx numbers is pressed (R151). -/
theorem exec_skp (x : RegIdx) (s : State) :
    exec (.skp x) s = .next (s.skipIf (s.keyDown? (lowNibble (s.reg x)))) := rfl

/-- SKNP skips if that key is not pressed (R152). -/
theorem exec_sknp (x : RegIdx) (s : State) :
    exec (.sknp x) s = .next (s.skipIf (!(s.keyDown? (lowNibble (s.reg x))))) := rfl

/-- LD Vx, DT writes the delay timer to Vx (R153). -/
theorem exec_ldVxDT (x : RegIdx) (s : State) : exec (.ldVxDT x) s = .next (s.setReg x s.DT).advance := rfl

/-- LD DT, Vx writes Vx to the delay timer (R155). -/
theorem exec_ldDTVx (x : RegIdx) (s : State) : exec (.ldDTVx x) s = .next (s.setDT (s.reg x)).advance := rfl

/-- LD ST, Vx writes Vx to the sound timer (R156). -/
theorem exec_ldSTVx (x : RegIdx) (s : State) : exec (.ldSTVx x) s = .next (s.setST (s.reg x)).advance := rfl

/-- A skip moves `pc` alone, whether or not it is taken. -/
theorem State.skipIf_frame (s : State) (c : Bool) : KeepsRegs [] s (s.skipIf c) ∧ KeepsParts [] s (s.skipIf c) := by
  have parts : KeepsParts [] s (s.skipIf c) := by
    cases c with
    | false => exact KeepsParts.of_fields
    | true => exact KeepsParts.of_fields
  exact ⟨KeepsRegs.of_file (s.skipIf_V c), parts⟩

/-- The write of the delay timer and the `pc` increment after it. -/
theorem State.setDT_advance_effect (s : State) (b : Byte) :
    (s.setDT b).advance.DT = b ∧ (s.setDT b).advance.ST = s.ST ∧ (s.setDT b).advance.pc = s.pc + 2 ∧
      KeepsRegs [] s (s.setDT b).advance ∧ KeepsParts [.timers] s (s.setDT b).advance := by
  have written : (s.setDT b).advance.DT = b := by
    rw [State.advance_DT, State.setDT_DT]
  have other_timer : (s.setDT b).advance.ST = s.ST := by
    rw [State.advance_ST, State.setDT_ST]
  have next_pc : (s.setDT b).advance.pc = s.pc + 2 := by
    rw [State.advance_pc, State.setDT_pc]
  have same_file : (s.setDT b).advance.V = s.V := by
    rw [State.advance_V, State.setDT_V]
  exact ⟨written, other_timer, next_pc, KeepsRegs.of_file same_file, KeepsParts.of_fields⟩

/-- The write of the sound timer and the `pc` increment after it. -/
theorem State.setST_advance_effect (s : State) (b : Byte) :
    (s.setST b).advance.ST = b ∧ (s.setST b).advance.DT = s.DT ∧ (s.setST b).advance.pc = s.pc + 2 ∧
      KeepsRegs [] s (s.setST b).advance ∧ KeepsParts [.timers] s (s.setST b).advance := by
  have written : (s.setST b).advance.ST = b := by
    rw [State.advance_ST, State.setST_ST]
  have other_timer : (s.setST b).advance.DT = s.DT := by
    rw [State.advance_DT, State.setST_DT]
  have next_pc : (s.setST b).advance.pc = s.pc + 2 := by
    rw [State.advance_pc, State.setST_pc]
  have same_file : (s.setST b).advance.V = s.V := by
    rw [State.advance_V, State.setST_V]
  exact ⟨written, other_timer, next_pc, KeepsRegs.of_file same_file, KeepsParts.of_fields⟩

/-- Settles O27: SKP and SKNP are skips on one key's state and on its negation; `k` is the low nibble of Vx. -/
theorem keySkipsMovePcOnly : Obligations.KeySkipsMovePcOnly := by
  intro x k s hk
  have tested : lowNibble (s.reg x) = k := Fin.ext ((val_lowNibble (s.reg x)).trans hk.symm)
  have skp_next := exec_skp x s
  have sknp_next := exec_sknp x s
  rw [tested] at skp_next sknp_next
  have negated_pc : (s.skipIf (!s.keyDown? k)).pc = s.pc + (if s.keyDown? k = true then 2 else 4) := by
    rw [State.skipIf_pc]
    cases s.keyDown? k with
    | false => rfl
    | true => rfl
  exact ⟨⟨_, skp_next, s.skipIf_pc _, s.skipIf_frame _⟩, ⟨_, sknp_next, negated_pc, s.skipIf_frame _⟩⟩

/-- Settles O44: each load is one write, of Vx, DT or ST, and an advance. -/
theorem timerLoadsCopyOneByte : Obligations.TimerLoadsCopyOneByte := by
  intro x s
  exact ⟨⟨_, exec_ldVxDT x s, s.setReg_advance_effect x s.DT⟩,
    ⟨_, exec_ldDTVx x s, s.setDT_advance_effect (s.reg x)⟩,
    ⟨_, exec_ldSTVx x s, s.setST_advance_effect (s.reg x)⟩⟩

end Sys2Proof.Machine
end

section
/-! Clearing the display (spec 44_display.md R161). -/

namespace Sys2Proof.Machine

/-- CLS replaces the framebuffer by the blank one (R161). -/
theorem exec_cls (s : State) : exec .cls s = .next (s.setFb Framebuffer.blank).advance := rfl

/-- The pixels after a write of the framebuffer are those of the new framebuffer. -/
@[simp] theorem State.pixel_setFb (s : State) (fb : Framebuffer) (row : Fin Config.displayHeight)
    (col : Fin Config.displayWidth) : (s.setFb fb).pixel row col = Framebuffer.pixel fb row col := rfl

/-- The write of the framebuffer and the `pc` increment after it: the pixels are those of `fb`, and every general
register and every part but the display is as before. -/
theorem State.setFb_advance_effect (s : State) (fb : Framebuffer) :
    (∀ row col, (s.setFb fb).advance.pixel row col = Framebuffer.pixel fb row col) ∧
      (s.setFb fb).advance.pc = s.pc + 2 ∧
      KeepsRegs [] s (s.setFb fb).advance ∧ KeepsParts [.display] s (s.setFb fb).advance := by
  have shown (row : Fin Config.displayHeight) (col : Fin Config.displayWidth) :
      (s.setFb fb).advance.pixel row col = Framebuffer.pixel fb row col := by
    rw [State.pixel_advance, State.pixel_setFb]
  have next_pc : (s.setFb fb).advance.pc = s.pc + 2 := by
    rw [State.advance_pc, State.setFb_pc]
  have same_file : (s.setFb fb).advance.V = s.V := by
    rw [State.advance_V, State.setFb_V]
  exact ⟨shown, next_pc, KeepsRegs.of_file same_file, KeepsParts.of_fields⟩

/-- Settles O53: CLS is one write of the blank framebuffer and an advance; every pixel of that framebuffer is 0. -/
theorem clsClearsEveryPixel : Obligations.ClsClearsEveryPixel := by
  intro s
  obtain ⟨shown, next_pc, regs, parts⟩ := s.setFb_advance_effect Framebuffer.blank
  have cleared (row : Fin Config.displayHeight) (col : Fin Config.displayWidth) :
      (s.setFb Framebuffer.blank).advance.pixel row col = false := by
    rw [shown, Framebuffer.pixel_blank]
  exact ⟨_, exec_cls s, cleared, next_pc, regs, parts⟩

end Sys2Proof.Machine
end

section
/-! What an instruction can do, said once: it takes the fault of its check (60_exceptions.md R170 to R176), or it
completes. The frame of every completed instruction, one lemma per unit of the state. -/

namespace Sys2Proof.Machine

/-- The fault an instruction's one check finds, if any: the stack checks (R172, R173), the target of JP V0 (R108) and the
blocks accessed through `I` (R142, R162). -/
def trapOf (i : Instr) (s : State) : Option Trap :=
  match i with
  | .ret => if s.sp = s.stackCapacity then some .stackUnderflow else none
  | .call _ => if s.sp = 0 then some .stackOverflow else none
  | .jpV0 nnn => if s.v0Target nnn > 0xFFF then some (.addressOutOfRange (s.v0Target nnn)) else none
  | .drw _ _ n => (firstOutOfRange s.base n.val).map .addressOutOfRange
  | .ldB _ => (firstOutOfRange s.base 3).map .addressOutOfRange
  | .stRegs x | .ldRegs x => (firstOutOfRange s.base (x.val + 1)).map .addressOutOfRange
  | _ => none

/-- The state an instruction makes when its check, if it has one, passes. -/
def completed (i : Instr) (s : State) : State :=
  match i with
  | .ret => s.pop.jump (s.slot s.sp)
  | .call nnn => (s.push (s.pc + 2)).jump (widenAddr nnn)
  | .jpV0 nnn => s.jump (BitVec.ofNat 16 (s.v0Target nnn))
  | .drw x y n => ((s.setFb (s.drawing x y n).fb).setReg vf (flagByte (s.drawing x y n).collision)).advance
  | .ldB x => (s.writeBytes s.base (decimalDigits (s.reg x))).advance
  | .stRegs x => (s.writeBytes s.base (s.regsUpTo x)).advance
  | .ldRegs x => (s.setRegsFrom0 (s.readBytes s.base (x.val + 1))).advance
  | i =>
    match exec i s with
    | .next t => t
    | _ => s

/-- A checked access, by what its range check answers. -/
theorem State.ifInRange_eq (s k : State) (a n : Nat) :
    s.ifInRange a n k = ((firstOutOfRange a n).map Trap.addressOutOfRange).elim k s.raise := by
  unfold State.ifInRange
  cases firstOutOfRange a n with
  | none => rfl
  | some b => rfl

/-- Every instruction takes the fault of its check or completes. -/
theorem exec_eq (i : Instr) (s : State) : exec i s = .next ((trapOf i s).elim (completed i s) s.raise) := by
  have checked (c : Prop) [Decidable c] (k : State) (tr : Trap) :
      (if c then s.raise tr else k) = (if c then some tr else none).elim k s.raise := by
    split <;> rfl
  cases i
  case ret | call | jpV0 => exact congrArg _ (checked _ _ _)
  case drw | ldB | stRegs | ldRegs => exact congrArg _ (s.ifInRange_eq _ _ _)
  all_goals rfl

theorem exec_trap {i : Instr} {s : State} {tr : Trap} (h : trapOf i s = some tr) : exec i s = .next (s.raise tr) := by
  rw [exec_eq, h, Option.elim]

theorem exec_completed {i : Instr} {s : State} (h : trapOf i s = none) : exec i s = .next (completed i s) := by
  rw [exec_eq, h, Option.elim]

/-- The two outcomes of an instruction. -/
theorem exec_cases {i : Instr} {s t : State} (h : exec i s = .next t) :
    (∃ tr, trapOf i s = some tr ∧ t = s.raise tr) ∨ (trapOf i s = none ∧ t = completed i s) := by
  cases htr : trapOf i s with
  | none => rw [exec_completed htr] at h; cases h; exact .inr ⟨rfl, rfl⟩
  | some tr => rw [exec_trap htr] at h; cases h; exact .inl ⟨tr, rfl, rfl⟩

/-! ### The frame of a completed instruction: each unit of the state with its writers -/

theorem completed_mem (i : Instr) (s : State) :
    (∃ x, i = .stRegs x ∨ i = .ldB x) ∨ (completed i s).mem = s.mem := by
  cases i
  case stRegs x => exact .inl ⟨x, .inl rfl⟩
  case ldB x => exact .inl ⟨x, .inr rfl⟩
  case seByte | sneByte | seReg | sneReg | skp | sknp => exact .inr (s.skipIf_mem _)
  all_goals exact .inr rfl

theorem completed_fb (i : Instr) (s : State) :
    (i = .cls ∨ ∃ x y n, i = .drw x y n) ∨ (completed i s).fb = s.fb := by
  cases i
  case cls => exact .inl (.inl rfl)
  case drw x y n => exact .inl (.inr ⟨x, y, n, rfl⟩)
  case seByte | sneByte | seReg | sneReg | skp | sknp => exact .inr (s.skipIf_fb _)
  all_goals exact .inr rfl

theorem completed_stack (i : Instr) (s : State) :
    (i = .ret ∨ ∃ nnn, i = .call nnn) ∨ ((completed i s).sp = s.sp ∧ (completed i s).stack = s.stack) := by
  cases i
  case ret => exact .inl (.inl rfl)
  case call nnn => exact .inl (.inr ⟨nnn, rfl⟩)
  case seByte | sneByte | seReg | sneReg | skp | sknp => exact .inr ⟨s.skipIf_sp _, s.skipIf_stack _⟩
  all_goals exact .inr ⟨rfl, rfl⟩

theorem completed_I (i : Instr) (s : State) :
    ((∃ nnn, i = .ldI nnn) ∨ ∃ x, i = .addI x ∨ i = .ldF x) ∨ (completed i s).I = s.I := by
  cases i
  case ldI nnn => exact .inl (.inl ⟨nnn, rfl⟩)
  case addI x => exact .inl (.inr ⟨x, .inl rfl⟩)
  case ldF x => exact .inl (.inr ⟨x, .inr rfl⟩)
  case seByte | sneByte | seReg | sneReg | skp | sknp => exact .inr (s.skipIf_I _)
  all_goals exact .inr rfl

theorem completed_DT (i : Instr) (s : State) : (∃ x, i = .ldDTVx x) ∨ (completed i s).DT = s.DT := by
  cases i
  case ldDTVx x => exact .inl ⟨x, rfl⟩
  case seByte | sneByte | seReg | sneReg | skp | sknp => exact .inr (s.skipIf_DT _)
  all_goals exact .inr rfl

theorem completed_ST (i : Instr) (s : State) : (∃ x, i = .ldSTVx x) ∨ (completed i s).ST = s.ST := by
  cases i
  case ldSTVx x => exact .inl ⟨x, rfl⟩
  case seByte | sneByte | seReg | sneReg | skp | sknp => exact .inr (s.skipIf_ST _)
  all_goals exact .inr rfl

theorem completed_rng (i : Instr) (s : State) : (∃ x kk, i = .rnd x kk) ∨ (completed i s).rng = s.rng := by
  cases i
  case rnd x kk => exact .inl ⟨x, kk, rfl⟩
  case seByte | sneByte | seReg | sneReg | skp | sknp => exact .inr (s.skipIf_rng _)
  all_goals exact .inr rfl

/-- No instruction writes the key latch or a parameter of the machine. -/
theorem completed_key_params (i : Instr) (s : State) :
    (completed i s).key = s.key ∧ (completed i s).fontBase = s.fontBase ∧
      (completed i s).stackCapacity = s.stackCapacity := by
  cases i
  case seByte | sneByte | seReg | sneReg | skp | sknp =>
    exact ⟨s.skipIf_key _, s.skipIf_fontBase _, s.stackCapacity_skipIf _⟩
  case ret => exact ⟨rfl, rfl, s.stackCapacity_pop⟩
  case call => exact ⟨rfl, rfl, s.stackCapacity_push _⟩
  all_goals exact ⟨rfl, rfl, rfl⟩

/-- A completed instruction leaves the run state and the fault registers, or it is LD Vx, K and begins to wait. -/
theorem completed_control (i : Instr) (s : State) :
    (∃ x, i = .ldVxK x ∧ completed i s = s.awaitKey x) ∨ Part.Same .control s (completed i s) := by
  cases i
  case ldVxK x => exact .inl ⟨x, rfl, rfl⟩
  case seByte | sneByte | seReg | sneReg | skp | sknp =>
    exact .inr ⟨s.skipIf_run _, s.skipIf_kx _, s.skipIf_faultCause _, s.skipIf_faultInfo _⟩
  all_goals exact .inr ⟨rfl, rfl, rfl, rfl⟩

/-- A completed instruction does not halt a core that was not halted. -/
theorem completed_not_halted {i : Instr} {s : State} (h : s.run ≠ .halted) : (completed i s).run ≠ .halted := by
  rcases completed_control i s with ⟨x, _, waits⟩ | ⟨same_run, _⟩
  · rw [waits]; exact nofun
  · rwa [same_run]

/-- An instruction that ends in HALTED in a core that was not halted took the fault of its check. -/
theorem exec_halted {i : Instr} {s t : State} (hs : s.run ≠ .halted) (h : exec i s = .next t) (ht : t.run = .halted) :
    ∃ tr, trapOf i s = some tr ∧ t = s.raise tr := by
  rcases exec_cases h with trapped | ⟨_, rfl⟩
  · exact trapped
  · exact absurd ht (completed_not_halted hs)

/-- An instruction that does not end in HALTED completed. -/
theorem exec_not_halted {i : Instr} {s t : State} (h : exec i s = .next t) (ht : t.run ≠ .halted) :
    trapOf i s = none ∧ t = completed i s := by
  rcases exec_cases h with ⟨tr, _, rfl⟩ | done
  · exact absurd (s.raise_run tr) ht
  · exact done

/-- Settles O57: an instruction that faults keeps every unit but the control registers; a completed one has the frame
of `completed`. -/
theorem eachUnitHasItsOwnWriters : Obligations.EachUnitHasItsOwnWriters := by
  intro i s t h
  rcases exec_cases h with ⟨tr, _, rfl⟩ | ⟨_, rfl⟩
  · exact ⟨.inr (s.readByte_raise tr), .inr (s.pixel_raise tr), .inr ⟨rfl, rfl⟩, .inr rfl, .inr rfl, .inr rfl, .inr rfl,
      s.keyDown?_raise tr, rfl, rfl⟩
  · obtain ⟨key, font, capacity⟩ := completed_key_params i s
    have display (e : (completed i s).fb = s.fb) : Part.Same .display s (completed i s) := fun row col => by
      rw [State.pixel, e, State.pixel]
    have keys : Part.Same .keys s (completed i s) := fun k => by rw [State.keyDown?, key, State.keyDown?]
    exact ⟨(completed_mem i s).imp_right State.readByte_congr, (completed_fb i s).imp_right display, completed_stack i s,
      completed_I i s, completed_DT i s, completed_ST i s, completed_rng i s, keys, font, capacity⟩

/-- An immediate address lies in memory. -/
theorem toNat_widenAddr_le (nnn : Addr12) : (widenAddr nnn).toNat ≤ 0xFFF := by
  have := nnn.isLt
  rw [toNat_widenAddr]; omega

/-- The target of JP V0 fits the program counter's 16 bits. -/
theorem toNat_v0Target (nnn : Addr12) (s : State) :
    (BitVec.ofNat 16 (s.v0Target nnn)).toNat = (s.reg 0).toNat + nnn.toNat := by
  have := nnn.isLt
  have := (s.reg 0).isLt
  rw [BitVec.toNat_ofNat, State.v0Target, Nat.mod_eq_of_lt (by omega)]

/-- Settles O29: a completed instruction by its policy; every instruction but jumps, returns, waits and skips advances. -/
theorem pcPolicyOfEveryInstruction : Obligations.PcPolicyOfEveryInstruction := by
  intro i s t _ h ht
  obtain rfl := (exec_not_halted h ht).2
  have skip (c : Bool) : (s.skipIf c).pc = s.pc + 2 ∨ (s.skipIf c).pc = s.pc + 4 := by
    cases c
    · exact .inl (s.skipIf_pc false)
    · exact .inr (s.skipIf_pc true)
  cases i
  case jp nnn => exact .inl ⟨⟨nnn, .inl rfl⟩, toNat_widenAddr_le nnn⟩
  case call nnn => exact .inl ⟨⟨nnn, .inr rfl⟩, toNat_widenAddr_le nnn⟩
  case jpV0 nnn => exact .inr (.inl ⟨nnn, rfl, toNat_v0Target nnn s⟩)
  case ret => exact .inr (.inr (.inl ⟨rfl, rfl⟩))
  case ldVxK x => exact .inr (.inr (.inr (.inl ⟨⟨x, rfl⟩, rfl⟩)))
  all_goals refine .inr (.inr (.inr (.inr ?_)))
  case seByte x kk => exact .inl ⟨.inl ⟨x, kk, .inl rfl⟩, skip _⟩
  case sneByte x kk => exact .inl ⟨.inl ⟨x, kk, .inr rfl⟩, skip _⟩
  case seReg x y => exact .inl ⟨.inr (.inl ⟨x, y, .inl rfl⟩), skip _⟩
  case sneReg x y => exact .inl ⟨.inr (.inl ⟨x, y, .inr rfl⟩), skip _⟩
  case skp x => exact .inl ⟨.inr (.inr ⟨x, .inl rfl⟩), skip _⟩
  case sknp x => exact .inl ⟨.inr (.inr ⟨x, .inr rfl⟩), skip _⟩
  all_goals exact .inr ⟨by simp, by simp, by simp, by simp, by simp, by simp, rfl⟩

end Sys2Proof.Machine
end

section
/-! The invariant of reachable states (spec 10_state.md R27, R38): it holds at power-on, and every step and every host
move keeps it. -/

namespace Sys2Proof.Machine

/-! ### The stack's share of the invariant -/

/-- `sp` in range, the slots below it 0, the slots from it on return addresses (R26, R27). -/
structure State.StackOk (s : State) : Prop where
  spRange : s.sp ≤ s.stackCapacity
  deadSlots : ∀ j, j < s.sp → s.slot j = 0
  liveSlots : ∀ j, s.sp ≤ j → j < s.stackCapacity → 0x002 ≤ (s.slot j).toNat ∧ (s.slot j).toNat ≤ 0x1000

theorem State.Inv.stackOk {s : State} (h : s.Inv) : s.StackOk := ⟨h.spRange, h.deadSlots, h.liveSlots⟩

theorem State.StackOk.congr {s t : State} (h : s.StackOk) (hsp : t.sp = s.sp) (hst : t.stack = s.stack) : t.StackOk := by
  have slots (j : Nat) : t.slot j = s.slot j := State.slot_congr hst j
  have capacity : t.stackCapacity = s.stackCapacity := congrArg List.length hst
  refine ⟨?_, fun j hj => ?_, fun j hj hlt => ?_⟩
  · rw [hsp, capacity]; exact h.spRange
  · rw [slots]; exact h.deadSlots j (hsp ▸ hj)
  · rw [slots]; exact h.liveSlots j (hsp ▸ hj) (capacity ▸ hlt)

/-- Pushing a return address. -/
theorem State.StackOk.push {s : State} (h : s.StackOk) {v : Word} (hlo : 0x002 ≤ v.toNat) (hhi : v.toNat ≤ 0x1000) :
    (s.push v).StackOk := by
  have hsp := h.spRange
  refine ⟨?_, fun j hj => ?_, fun j hj hlt => ?_⟩
  · rw [State.push_sp, State.stackCapacity_push]; omega
  · rw [State.push_sp] at hj
    rw [State.slot_push, if_neg (by omega)]
    exact h.deadSlots j (by omega)
  · rw [State.push_sp] at hj
    rw [State.stackCapacity_push] at hlt
    rw [State.slot_push]
    split
    · exact ⟨hlo, hhi⟩
    · exact h.liveSlots j (by omega) hlt

/-- Popping a stack that is not empty. -/
theorem State.StackOk.pop {s : State} (h : s.StackOk) (hne : s.sp ≠ s.stackCapacity) : s.pop.StackOk := by
  have hsp := h.spRange
  refine ⟨?_, fun j hj => ?_, fun j hj hlt => ?_⟩
  · rw [State.pop_sp, State.stackCapacity_pop]; omega
  · rw [State.pop_sp] at hj
    rw [State.slot_pop]
    split
    · rfl
    · exact h.deadSlots j (by omega)
  · rw [State.pop_sp] at hj
    rw [State.stackCapacity_pop] at hlt
    rw [State.slot_pop, if_neg (by omega)]
    exact h.liveSlots j (by omega) hlt

/-! ### Steps -/

/-- Every fault entry records a cause (R170). -/
theorem Trap.cause_ne_none (tr : Trap) : tr.cause ≠ .none := by
  cases tr <;> exact nofun

/-- Fault entry in RUNNING keeps the invariant. -/
theorem State.Inv.raise {s : State} (h : s.Inv) (hr : s.run = .running) (tr : Trap) : (s.raise tr).Inv where
  memWf := h.memWf
  pcRange := h.pcRange
  spRange := h.spRange
  deadSlots := h.deadSlots
  liveSlots := h.liveSlots
  haltedIff := ⟨fun _ => tr.cause_ne_none, fun _ => rfl⟩
  kxZero _ := h.kxZero (by rw [hr]; exact nofun)
  waitPc := nofun
  noInfo hc := absurd hc tr.cause_ne_none
  fontFits := h.fontFits

/-- A completed instruction leaves memory in canonical form. -/
theorem completed_mem_wf (i : Instr) {s : State} (h : s.mem.wf = true) : (completed i s).mem.wf = true := by
  rcases completed_mem i s with ⟨x, rfl | rfl⟩ | same
  · exact Memory.writeBlock_wf h _ _
  · exact Memory.writeBlock_wf h _ _
  · rwa [same]

/-- `pc + 2` of a fetched instruction does not wrap. -/
theorem toNat_pc_add {s : State} (hpc : s.pc.toNat ≤ 0xFFE) :
    (s.pc + 2).toNat = s.pc.toNat + 2 ∧ (s.pc + 4).toNat = s.pc.toNat + 4 := by
  constructor <;> (rw [BitVec.toNat_add]; exact Nat.mod_eq_of_lt (by simp; omega))

/-- RET that passes its check finds a stack that is not empty. -/
theorem sp_ne_of_trapOf_ret {s : State} (hc : trapOf .ret s = none) : s.sp ≠ s.stackCapacity := fun e => by
  simp [trapOf, e] at hc

/-- A completed instruction, its check passed and its word fetched, leaves the stack well formed. -/
theorem completed_stackOk {i : Instr} {s : State} (h : s.StackOk) (hpc : s.pc.toNat ≤ 0xFFE)
    (hc : trapOf i s = none) : (completed i s).StackOk := by
  rcases completed_stack i s with (rfl | ⟨nnn, rfl⟩) | ⟨same_sp, same_stack⟩
  · exact (h.pop (sp_ne_of_trapOf_ret hc)).congr rfl rfl
  · have pushed := (toNat_pc_add hpc).1
    exact (h.push (v := s.pc + 2) (by omega) (by omega)).congr rfl rfl
  · exact h.congr same_sp same_stack

/-- The value RET pops is at most 0x1000 (R27). -/
theorem State.StackOk.slot_sp_le {s : State} (h : s.StackOk) (hc : trapOf .ret s = none) :
    (s.slot s.sp).toNat ≤ 0x1000 := by
  have hne := sp_ne_of_trapOf_ret hc
  exact (h.liveSlots s.sp le_rfl (by have := h.spRange; omega)).2

/-- JP V0 that passes its check jumps into memory. -/
theorem v0Target_le {nnn : Addr12} {s : State} (hc : trapOf (.jpV0 nnn) s = none) :
    (s.reg 0).toNat + nnn.toNat ≤ 0xFFF := by
  by_contra hgt
  have : s.v0Target nnn > 0xFFF := by rw [State.v0Target]; omega
  simp [trapOf, this] at hc

/-- A completed instruction leaves `pc` at most two words above the last fetchable address. -/
theorem completed_pc_le {i : Instr} {s : State} (h : s.StackOk) (hr : s.run = .running) (hpc : s.pc.toNat ≤ 0xFFE)
    (hc : trapOf i s = none) : (completed i s).pc.toNat ≤ 0x1002 := by
  have not_halted : (completed i s).run ≠ .halted := completed_not_halted (by rw [hr]; exact nofun)
  obtain ⟨two, four⟩ := toNat_pc_add hpc
  rcases pcPolicyOfEveryInstruction i s _ hr (exec_completed hc) not_halted with
    ⟨_, jumped⟩ | ⟨nnn, rfl, jumped⟩ | ⟨rfl, popped⟩ | ⟨_, stays⟩ | ⟨_, next | skipped⟩ | ⟨_, _, _, _, _, _, next⟩
  · omega
  · have := v0Target_le hc; omega
  · have := h.slot_sp_le hc; rw [popped]; omega
  · rw [stays]; omega
  · rw [next]; omega
  · rw [skipped]; omega
  · rw [next]; omega

/-- A core that is not halted has no fault recorded. -/
theorem State.Inv.no_cause {s : State} (h : s.Inv) (hr : s.run ≠ .halted) : s.faultCause = .none :=
  not_not.1 fun hcause => hr (h.haltedIff.2 hcause)

/-- A completed instruction keeps the invariant. -/
theorem completed_inv {i : Instr} {s : State} (h : s.Inv) (hr : s.run = .running) (hpc : s.pc.toNat ≤ 0xFFE)
    (hc : trapOf i s = none) : (completed i s).Inv := by
  have no_cause := h.no_cause (by rw [hr]; exact nofun)
  obtain ⟨spRange, deadSlots, liveSlots⟩ := completed_stackOk h.stackOk hpc hc
  have fontFits : (completed i s).fontBase.toNat + 16 * Params.fontStride ≤ 0x200 := by
    rw [(completed_key_params i s).2.1]; exact h.fontFits
  have pcRange := completed_pc_le h.stackOk hr hpc hc
  rcases completed_control i s with ⟨x, rfl, waits⟩ | ⟨run, kx, cause, info⟩
  · exact ⟨h.memWf, pcRange, spRange, deadSlots, liveSlots,
      ⟨nofun, fun hne => absurd no_cause hne⟩, fun hne => absurd rfl hne, fun _ => hpc, h.noInfo, fontFits⟩
  · have running : (completed i s).run = .running := run.trans hr
    refine ⟨completed_mem_wf i h.memWf, pcRange, spRange, deadSlots, liveSlots, ?_, fun _ => ?_, fun hw => ?_, ?_, fontFits⟩
    · rw [run, cause]; exact h.haltedIff
    · rw [kx]; exact h.kxZero (by rw [hr]; exact nofun)
    · rw [running] at hw; cases hw
    · rw [cause, info]; exact h.noInfo

/-- Settles O4: a step idles, takes a fault, or runs a fetched instruction, which faults or completes. -/
theorem everyStepKeepsTheInvariant : Obligations.EveryStepKeepsTheInvariant := by
  intro s t hs h
  rcases step_cases h with ⟨_, rfl⟩ | ⟨hr, _, rfl⟩ | ⟨w, hr, _, _, rfl⟩ | ⟨i, hr, hpc, _, hexec⟩
  · exact hs
  · exact hs.raise hr _
  · exact hs.raise hr _
  · rcases exec_cases hexec with ⟨tr, _, rfl⟩ | ⟨hc, rfl⟩
    · exact hs.raise hr tr
    · exact completed_inv hs hr (by omega) hc

/-! ### Power-on, host moves, reachable states -/

/-- Reset gives a state that meets the invariant, in any machine whose FONT_BASE meets its constraint. -/
theorem State.inv_resetOp {s : State} (h : s.fontBase.toNat + 16 * Params.fontStride ≤ 0x200) : s.resetOp.Inv where
  memWf := rfl
  pcRange := Nat.le_of_ble_eq_true rfl
  spRange := by rw [State.stackCapacity_resetOp]; exact le_rfl
  deadSlots j _ := s.slot_resetOp j
  liveSlots j hj hlt := by
    rw [State.stackCapacity_resetOp] at hlt
    exact absurd hlt (Nat.not_lt.2 hj)
  haltedIff := ⟨nofun, fun hne => absurd rfl hne⟩
  kxZero _ := rfl
  waitPc := nofun
  noInfo _ := rfl
  fontFits := h

/-- The power-on state is what Reset makes of it (R201). -/
theorem State.resetOp_reset : State.reset.resetOp = State.reset := rfl

/-- Reset leaves the key latch, the random source and the parameters (R200). -/
theorem State.keepsParts_resetOp (s : State) :
    KeepsParts [.index, .stack, .timers, .memory, .display, .control] s s.resetOp :=
  KeepsParts.of_fields (params := fun _ => ⟨rfl, s.stackCapacity_resetOp⟩)

/-- After Reset every register holds 0. -/
theorem State.reg_resetOp (s : State) (x : RegIdx) : s.resetOp.reg x = 0 := by
  simp [State.reg, State.resetOp]

/-- Settles O1: Reset answers `resetOp`, whose fields are the reset values. -/
theorem resetGivesTheResetValues : Obligations.ResetGivesTheResetValues := by
  intro s
  exact ⟨s.resetOp, rfl, fun _ => rfl, s.slot_resetOp, rfl, s.stackCapacity_resetOp.symm, s.reg_resetOp, rfl, rfl, rfl,
    Framebuffer.pixel_blank, rfl, rfl, rfl, rfl, s.keepsParts_resetOp⟩

/-- Settles O2: the power-on state is a reset state, and its latch is all false. -/
theorem freshMachineIsAResetMachine : Obligations.FreshMachineIsAResetMachine := by
  refine ⟨congrArg _ State.resetOp_reset, fun k => ?_⟩
  simp [State.keyDown?, State.reset]

/-- Settles O3: the power-on state is a reset state, and its FONT_BASE is 0. -/
theorem resetMeetsTheInvariant : Obligations.ResetMeetsTheInvariant := by
  have inv := State.inv_resetOp (s := State.reset) (by decide)
  rwa [State.resetOp_reset] at inv

/-- The end of a key wait keeps the invariant. -/
theorem State.Inv.keyDown_waiting {s : State} (h : s.Inv) (hw : s.run = .awaitingKey) (k : KeyIdx) :
    (((s.setKey k true).setReg s.kx (keyNumber k)).advance).endWait.Inv := by
  have no_cause := h.no_cause (by rw [hw]; exact nofun)
  have advanced : (s.pc + 2).toNat ≤ 0x1002 := by
    have := h.waitPc hw
    rw [(toNat_pc_add this).1]; omega
  exact ⟨h.memWf, advanced, h.spRange, h.deadSlots, h.liveSlots, ⟨nofun, fun hne => absurd no_cause hne⟩,
    fun _ => rfl, nofun, h.noInfo, h.fontFits⟩

/-- A host write of bytes keeps the invariant. -/
theorem State.Inv.writeBytes {s : State} (h : s.Inv) (a : Nat) (bs : List Byte) : (s.writeBytes a bs).Inv :=
  { h with memWf := Memory.writeBlock_wf h.memWf a bs }

/-- A host access that is a move answers the state it guards. -/
theorem hostAccess_next {a n : Nat} {k t : State} (h : hostAccess a n k = .next t) : t = k := by
  rcases hostAccess_cases a n k with ⟨_, e⟩ | ⟨_, _, e⟩ <;> rw [e] at h <;> cases h
  rfl

/-- Settles O5: Reset restarts, a key-down may end the wait, a write keeps memory canonical, and the other moves write
nothing the invariant speaks of. -/
theorem everyHostMoveKeepsTheInvariant : Obligations.EveryHostMoveKeepsTheInvariant := by
  intro m s t hs h
  cases m
  case reset => cases h; exact State.inv_resetOp hs.fontFits
  case keyDown k =>
    simp only [hostMove, hostKeyDown] at h
    split at h <;> cases h
    · exact hs.keyDown_waiting ‹_› k
    · exact { hs with }
  case memWriteByte => obtain rfl := hostAccess_next h; exact hs.writeBytes _ _
  case memWriteWord => obtain rfl := hostAccess_next h; exact hs.writeBytes _ _
  case memReadByte | memReadWord => obtain rfl := hostAccess_next h; exact hs
  case keyUp | tickTimers | seed => cases h; exact { hs with }
  case fbRead | status => cases h; exact hs

/-- The invariant holds in every reachable state. -/
theorem Reachable.inv {s : State} (h : Reachable s) : s.Inv := by
  induction h with
  | reset => exact resetMeetsTheInvariant
  | move m _ hact ih =>
    cases m with
    | step => exact everyStepKeepsTheInvariant _ _ ih hact
    | host m => exact everyHostMoveKeepsTheInvariant m _ _ ih hact

/-- The code of a cause is 0 exactly without a fault (R33). -/
theorem FaultCause.code_eq_zero {c : FaultCause} : c.code = 0 ↔ c = .none := by
  cases c <;> simp [FaultCause.code]

/-- Settles O6: the invariant, and the `pc` policy of the four instructions when they complete. -/
theorem reachableStatesAreWellFormed : Obligations.ReachableStatesAreWellFormed := by
  intro s hs
  have inv := hs.inv
  refine ⟨inv.pcRange, inv.spRange, inv.deadSlots, inv.liveSlots, ?_, inv.kxZero, ?_⟩
  · rw [ne_eq, FaultCause.code_eq_zero]; exact inv.haltedIff
  · intro i t hr hpc hdec hstep ht
    rw [step_fetched hr (by omega), hdec] at hstep
    obtain ⟨hc, rfl⟩ := exec_not_halted (i := i) hstep (by rw [ht]; exact nofun)
    refine ⟨?_, ?_⟩
    · rintro ⟨nnn, rfl | rfl | rfl⟩
      · exact toNat_widenAddr_le nnn
      · exact toNat_widenAddr_le nnn
      · exact (toNat_v0Target nnn s).trans_le (v0Target_le hc)
    · rintro rfl
      exact inv.stackOk.slot_sp_le hc

end Sys2Proof.Machine
end

section
/-! The decoder and the encoder (spec 30_encoding.md): each reads back what the other wrote, and the words the decoder
rejects. -/

namespace Sys2Proof

/-! ### The fields of an encoded word -/

theorem fieldF_wordNNN {f : Nat} (hf : f < 16) (nnn : Addr12) : (fieldF (wordNNN f nnn)).toNat = f := by
  have := nnn.isLt
  rw [toNat_fieldF, toNat_wordNNN hf]; omega

theorem fieldNNN_wordNNN {f : Nat} (hf : f < 16) (nnn : Addr12) : fieldNNN (wordNNN f nnn) = nnn := by
  have := nnn.isLt
  apply BitVec.eq_of_toNat_eq
  rw [toNat_fieldNNN, toNat_wordNNN hf]; omega

theorem fieldF_wordXKK {f : Nat} (hf : f < 16) (x : RegIdx) (kk : Byte) : (fieldF (wordXKK f x kk)).toNat = f := by
  have := x.isLt; have := kk.isLt
  rw [toNat_fieldF, toNat_wordXKK hf]; omega

theorem fieldX_wordXKK {f : Nat} (hf : f < 16) (x : RegIdx) (kk : Byte) : fieldX (wordXKK f x kk) = x := by
  have := x.isLt; have := kk.isLt
  apply Fin.ext
  rw [val_fieldX, toNat_wordXKK hf]; omega

theorem fieldKK_wordXKK {f : Nat} (hf : f < 16) (x : RegIdx) (kk : Byte) : fieldKK (wordXKK f x kk) = kk := by
  have := x.isLt; have := kk.isLt
  apply BitVec.eq_of_toNat_eq
  rw [toNat_fieldKK, toNat_wordXKK hf]; omega

theorem fieldF_wordXYN {f : Nat} (hf : f < 16) (x y : RegIdx) (n : Fin 16) : (fieldF (wordXYN f x y n)).toNat = f := by
  have := x.isLt; have := y.isLt; have := n.isLt
  rw [toNat_fieldF, toNat_wordXYN hf]; omega

theorem fieldX_wordXYN {f : Nat} (hf : f < 16) (x y : RegIdx) (n : Fin 16) : fieldX (wordXYN f x y n) = x := by
  have := x.isLt; have := y.isLt; have := n.isLt
  apply Fin.ext
  rw [val_fieldX, toNat_wordXYN hf]; omega

theorem fieldY_wordXYN {f : Nat} (hf : f < 16) (x y : RegIdx) (n : Fin 16) : fieldY (wordXYN f x y n) = y := by
  have := x.isLt; have := y.isLt; have := n.isLt
  apply Fin.ext
  rw [val_fieldY, toNat_wordXYN hf]; omega

theorem fieldN_wordXYN {f : Nat} (hf : f < 16) (x y : RegIdx) (n : Fin 16) : fieldN (wordXYN f x y n) = n := by
  have := x.isLt; have := y.isLt; have := n.isLt
  apply Fin.ext
  rw [val_fieldN, toNat_wordXYN hf]; omega

/-! ### Decoding an encoded word -/

/-- CLS and RET are the two words of family 0 that are not SYS (R74). -/
theorem decodeFamily0_sys {nnn : Addr12} (h : Instr.wf (.sys nnn) = true) : decodeFamily0 nnn = .sys nnn := by
  simp only [Instr.wf, Bool.and_eq_true, bne_iff_ne, ne_eq] at h
  rw [decodeFamily0, if_neg h.1, if_neg h.2]

/-- Settles O7: each format's word gives back its family and its operands, and the sub-opcode selects the arm. -/
theorem decodeOfEncodeIsTheInstruction : Obligations.DecodeOfEncodeIsTheInstruction := by
  intro i hwf
  cases i
  case cls | ret => decide
  case sys nnn =>
    simp [encode, decodeWord, fieldF_wordNNN, fieldNNN_wordNNN, decodeFamily0_sys hwf]
  case jp | call | ldI | jpV0 => simp [encode, decodeWord, fieldF_wordNNN, fieldNNN_wordNNN]
  case seByte | sneByte | ldByte | addByte | rnd =>
    simp [encode, decodeWord, fieldF_wordXKK, fieldX_wordXKK, fieldKK_wordXKK]
  case seReg | sneReg | drw =>
    simp [encode, decodeWord, fieldF_wordXYN, fieldX_wordXYN, fieldY_wordXYN, fieldN_wordXYN]
  case ldReg | orReg | andReg | xorReg | addReg | subReg | shr | subnReg | shl =>
    simp [encode, decodeWord, decodeFamily8, fieldF_wordXYN, fieldX_wordXYN, fieldY_wordXYN, fieldN_wordXYN]
  case skp | sknp =>
    simp [encode, decodeWord, decodeFamilyE, fieldF_wordXKK, fieldX_wordXKK, fieldKK_wordXKK]
  all_goals simp [encode, decodeWord, decodeFamilyF, fieldF_wordXKK, fieldX_wordXKK, fieldKK_wordXKK]

/-! ### Encoding a decoded word -/

theorem wordNNN_fields {w : Word} {f : Nat} (hf : (fieldF w).toNat = f) : wordNNN f (fieldNNN w) = w := by
  have := w.isLt
  rw [toNat_fieldF] at hf
  apply BitVec.eq_of_toNat_eq
  rw [toNat_wordNNN (by omega), toNat_fieldNNN]; omega

theorem wordXKK_fields {w : Word} {f : Nat} {kk : Byte} (hf : (fieldF w).toNat = f)
    (hk : (fieldKK w).toNat = kk.toNat) : wordXKK f (fieldX w) kk = w := by
  have := w.isLt
  rw [toNat_fieldF] at hf
  rw [toNat_fieldKK] at hk
  apply BitVec.eq_of_toNat_eq
  rw [toNat_wordXKK (by omega), val_fieldX]; omega

theorem toNat_wordXYN_fields {w : Word} {f : Nat} (hf : (fieldF w).toNat = f) (n : Fin 16) :
    (wordXYN f (fieldX w) (fieldY w) n).toNat = w.toNat - w.toNat % 16 + n.val := by
  have := w.isLt
  rw [toNat_fieldF] at hf
  rw [toNat_wordXYN (by omega), val_fieldX, val_fieldY]; omega

theorem wordXYN_fields {w : Word} {f : Nat} {n : Fin 16} (hf : (fieldF w).toNat = f) (hn : (fieldN w).val = n.val) :
    wordXYN f (fieldX w) (fieldY w) n = w := by
  apply BitVec.eq_of_toNat_eq
  rw [toNat_wordXYN_fields hf, ← hn, val_fieldN]; omega

theorem encode_decodeFamily0 {w : Word} (hf : (fieldF w).toNat = 0) :
    encode (decodeFamily0 (fieldNNN w)) = w ∧ (decodeFamily0 (fieldNNN w)).wf = true := by
  have word := wordNNN_fields hf
  unfold decodeFamily0
  split
  · next cls => rw [cls] at word; exact ⟨word, rfl⟩
  · split
    · next ret => rw [ret] at word; exact ⟨word, rfl⟩
    · next not_cls not_ret => exact ⟨word, by simp [Instr.wf, not_cls, not_ret]⟩

theorem encode_decodeFamily8 {w : Word} {i : Instr} (hf : (fieldF w).toNat = 8) (h : decodeFamily8 w = .instr i) :
    encode i = w ∧ i.wf = true := by
  unfold decodeFamily8 at h
  split at h <;> cases h
  all_goals exact ⟨wordXYN_fields hf ‹_›, rfl⟩

theorem encode_decodeFamilyE {w : Word} {i : Instr} (hf : (fieldF w).toNat = 14) (h : decodeFamilyE w = .instr i) :
    encode i = w ∧ i.wf = true := by
  unfold decodeFamilyE at h
  split at h <;> cases h
  all_goals exact ⟨wordXKK_fields hf ‹_›, rfl⟩

theorem encode_decodeFamilyF {w : Word} {i : Instr} (hf : (fieldF w).toNat = 15) (h : decodeFamilyF w = .instr i) :
    encode i = w ∧ i.wf = true := by
  unfold decodeFamilyF at h
  split at h <;> cases h
  all_goals exact ⟨wordXKK_fields hf ‹_›, rfl⟩

/-- A decoded instruction is well formed, and it encodes to its word, or it is one of the two compare skips of families 5
and 9, which do not keep the low nibble (R80). -/
theorem decodeWord_cases {w : Word} {i : Instr} (h : decodeWord w = .instr i) :
    ((fieldF w).toNat ≠ 5 ∧ (fieldF w).toNat ≠ 9 ∧ encode i = w ∧ i.wf = true) ∨
    ((fieldF w).toNat = 5 ∧ i = .seReg (fieldX w) (fieldY w)) ∨
    ((fieldF w).toNat = 9 ∧ i = .sneReg (fieldX w) (fieldY w)) := by
  unfold decodeWord at h
  split at h
  case h_1 hf => cases h; exact .inl ⟨by omega, by omega, encode_decodeFamily0 hf⟩
  case h_2 hf | h_3 hf | h_11 hf | h_12 hf => cases h; exact .inl ⟨by omega, by omega, wordNNN_fields hf, rfl⟩
  case h_4 hf | h_5 hf | h_7 hf | h_8 hf | h_13 hf =>
    cases h; exact .inl ⟨by omega, by omega, wordXKK_fields hf rfl, rfl⟩
  case h_6 hf => cases h; exact .inr (.inl ⟨hf, rfl⟩)
  case h_10 hf => cases h; exact .inr (.inr ⟨hf, rfl⟩)
  case h_14 hf => cases h; exact .inl ⟨by omega, by omega, wordXYN_fields hf rfl, rfl⟩
  case h_9 hf => exact .inl ⟨by omega, by omega, encode_decodeFamily8 hf h⟩
  case h_15 hf => exact .inl ⟨by omega, by omega, encode_decodeFamilyE hf h⟩
  case h_16 h0 h1 h2 h3 h4 h5 h6 h7 h8 h9 h10 h11 h12 h13 h14 =>
    have hf := fieldF_eq_15 h0 h1 h2 h3 h4 h5 h6 h7 h8 h9 h10 h11 h12 h13 h14
    exact .inl ⟨h5, h9, encode_decodeFamilyF hf h⟩

theorem fieldF_eq_iff {w : Word} {f : BitVec 4} : fieldF w = f ↔ (fieldF w).toNat = f.toNat :=
  BitVec.toNat_inj.symm

/-- Settles O8: outside families 5 and 9 the word is rebuilt from its fields; there the canonical low nibble is 0. -/
theorem encodeOfDecodeIsTheWord : Obligations.EncodeOfDecodeIsTheWord := by
  intro w i h
  simp only [ne_eq, fieldF_eq_iff]
  rcases decodeWord_cases h with ⟨not5, not9, word, wf⟩ | ⟨hf, rfl⟩ | ⟨hf, rfl⟩
  · exact ⟨wf, fun _ => word, fun e => absurd e (not_or.2 ⟨not5, not9⟩)⟩
  · exact ⟨rfl, fun e => absurd hf e.1, fun _ => toNat_wordXYN_fields hf 0⟩
  · exact ⟨rfl, fun e => absurd hf e.2, fun _ => toNat_wordXYN_fields hf 0⟩

/-! ### The table's rows -/

/-- Every instruction's canonical word lies in its row of the table (R75). -/
theorem encode_in_row (i : Instr) : encode i &&& i.maskBits = i.matchBits := by
  cases i
  case cls => exact Laws.FixedBits.cls
  case ret => exact Laws.FixedBits.ret
  case sys | jp | call | ldI | jpV0 => exact Laws.FixedBits.nnn_row (by decide) _
  case seByte | sneByte | ldByte | addByte | rnd => exact Laws.FixedBits.xkk_row (by decide) _ _
  case seReg | sneReg | drw => exact Laws.FixedBits.xyn_row (by decide) _ _ _
  case ldReg | orReg | andReg | xorReg | addReg | subReg | shr | subnReg | shl =>
    exact Laws.FixedBits.xy_row (by decide) _ _ _
  all_goals exact Laws.FixedBits.x_row (by decide) _ _

/-- The mask of families without a sub-opcode leaves the family nibble (R75). -/
theorem and_family_mask {w : Word} {f : Nat} (hf : (fieldF w).toNat = f) : w &&& 0xF000 = BitVec.ofNat 16 (4096 * f) := by
  rw [toNat_fieldF] at hf
  exact Laws.FixedBits.word_and_mask (j := 0) (k := 0) (by omega) rfl hf (Nat.mod_one _)

/-- Settles O10: the word is the instruction's own word, or its row of the table is a whole family. -/
theorem decodedWordsHaveTheirRowsBits : Obligations.DecodedWordsHaveTheirRowsBits := by
  intro w i h
  rcases decodeWord_cases h with ⟨_, _, word, _⟩ | ⟨hf, rfl⟩ | ⟨hf, rfl⟩
  · have row := encode_in_row i
    rwa [word] at row
  · exact and_family_mask hf
  · exact and_family_mask hf

/-! ### The rejected words -/

theorem decodeFamily8_illegal_iff {w : Word} :
    decodeFamily8 w = .illegal w ↔ (fieldN w).val ∈ [0x8, 0x9, 0xA, 0xB, 0xC, 0xD, 0xF] := by
  have bound := (fieldN w).isLt
  simp only [List.mem_cons, List.not_mem_nil, or_false]
  unfold decodeFamily8
  split
  case h_10 => simp only [imp_false, true_iff] at *; omega
  all_goals next hn => simp [hn]

theorem decodeFamilyE_illegal_iff {w : Word} :
    decodeFamilyE w = .illegal w ↔ (fieldKK w).toNat ∉ [0x9E, 0xA1] := by
  simp only [List.mem_cons, List.not_mem_nil, or_false]
  unfold decodeFamilyE
  split
  case h_3 => simp only [imp_false, true_iff] at *; omega
  all_goals next hk => simp [hk]

theorem decodeFamilyF_illegal_iff {w : Word} : decodeFamilyF w = .illegal w ↔
    (fieldKK w).toNat ∉ [0x07, 0x0A, 0x15, 0x18, 0x1E, 0x29, 0x33, 0x55, 0x65] := by
  simp only [List.mem_cons, List.not_mem_nil, or_false]
  unfold decodeFamilyF
  split
  case h_10 => simp only [imp_false, true_iff] at *; omega
  all_goals next hk => simp [hk]

/-- Settles O9: families 8, E and F reject by their sub-opcode, the others reject nothing. -/
theorem illegalWordsAreExactlyThese : Obligations.IllegalWordsAreExactlyThese := by
  intro w
  constructor
  · simp only [fieldF_eq_iff]
    rw [← decodeFamily8_illegal_iff, ← decodeFamilyE_illegal_iff, ← decodeFamilyF_illegal_iff]
    unfold decodeWord
    split
    case h_9 hf | h_15 hf => simp [hf]
    case h_16 h0 h1 h2 h3 h4 h5 h6 h7 h8 h9 h10 h11 h12 h13 h14 =>
      have hf := fieldF_eq_15 h0 h1 h2 h3 h4 h5 h6 h7 h8 h9 h10 h11 h12 h13 h14
      simp [hf]
    all_goals next hf => simp [hf]
  · intro legal
    cases hd : decodeWord w with
    | instr i => exact ⟨i, rfl⟩
    | illegal v =>
      obtain rfl := Machine.decodeWord_illegal hd
      exact absurd hd legal

/-- Settles O11: thirteen fixed words, each decoded by evaluation. -/
theorem sampleWordsDecode : Obligations.SampleWordsDecode := by
  refine ⟨?_, ?_, ?_, ?_, ?_, ?_, ?_, ?_, ?_, ?_, ?_, ?_, ?_⟩ <;> decide

end Sys2Proof
end

section
/-! The step, the faults and the run state (spec 60_exceptions.md, 10_state.md section 8). -/

namespace Sys2Proof.Machine

/-! ### What a step runs and reports (R180) -/

/-- Two bytes that decode to an instruction make a word that does. -/
theorem decodeWord_of_decodeBytes {hi lo : Byte} {i : Instr} (h : decodeBytes [hi, lo] = .instr i []) :
    decodeWord (wordOfBytes hi lo) = .instr i := by
  rw [decodeBytes] at h
  cases hd : decodeWord (wordOfBytes hi lo) with
  | instr j => rw [hd] at h; cases h; rfl
  | illegal w => rw [hd] at h; cases h

/-- Settles O12: in RUNNING a fetchable word goes to `runDecoded`, which runs the instruction it decodes to. -/
theorem stepRunsTheDecodedInstruction : Obligations.StepRunsTheDecodedInstruction := by
  intro s i hr hpc h
  have decoded : decodeWord s.fetchWord = .instr i := decodeWord_of_decodeBytes h
  rw [step_fetched hr (by omega), decoded, runDecoded]

/-- Settles O13: the fetch is a two-byte access at `pc`, which leaves memory. -/
theorem fetchOutOfRangeFaults : Obligations.FetchOutOfRangeFaults := by
  intro s hr hpc
  exact ⟨_, step_unfetchable hr (by omega), s.faultEntry_block s.pc⟩

/-- Settles O14: the two bytes of `w` make `w`, which is rejected under its own name. -/
theorem illegalWordTakesDecodeError : Obligations.IllegalWordTakesDecodeError := by
  intro s w hr hpc hhi hlo illegal
  have fetched : s.fetchWord = w := by rw [State.fetchWord, hhi, hlo, wordOfBytes_hi_lo]
  refine ⟨s.raise (.decodeError w), ?_, s.faultEntry_raise (.decodeError w)⟩
  rw [step_fetched hr (by omega), fetched, illegal, runDecoded]

theorem stepReport_of_next {s t : State} (h : step s = .next t) : stepReport s = some (reportOf s t) := by
  rw [stepReport, h]

/-- Settles O15: a step outside RUNNING answers the state itself, and the report is read from its run state. -/
theorem stepOutsideRunningDoesNothing : Obligations.StepOutsideRunningDoesNothing := by
  intro s
  have idle (hr : s.run ≠ .running) : step s = .next s ∧ stepReport s = some (reportOf s s) :=
    ⟨step_idle hr, stepReport_of_next (step_idle hr)⟩
  constructor
  · intro hr
    have report : reportOf s s = .halted s.faultCause s.faultInfo := by rw [reportOf, hr]
    exact report ▸ idle (by rw [hr]; exact nofun)
  · intro hr
    have report : reportOf s s = .awaitingInput := by rw [reportOf, hr]
    exact report ▸ idle (by rw [hr]; exact nofun)

/-- Every step answers a next state. -/
theorem step_next (s : State) : ∃ t, step s = .next t := by
  by_cases hr : s.run = .running
  · by_cases hpc : s.pc.toNat + 2 ≤ 4096
    · rw [step_fetched hr hpc]
      cases decodeWord s.fetchWord with
      | instr i => exact exec_next i s
      | illegal w => exact ⟨_, rfl⟩
    · exact ⟨_, step_unfetchable hr (by omega)⟩
  · exact ⟨s, step_idle hr⟩

/-- Settles O16: the step is total, and its report is one of three, one per run state. -/
theorem stepIsTotalAndReports : Obligations.StepIsTotalAndReports := by
  intro s
  obtain ⟨t, h⟩ := step_next s
  refine ⟨t, h, fun hr => ?_⟩
  rw [stepReport_of_next h, reportOf, hr]
  cases t.run <;> simp

/-! ### Faults (R170 to R177) -/

/-- The condition of each check and what it records (R174). -/
theorem trapOf_cases {i : Instr} {s : State} {tr : Trap} (h : trapOf i s = some tr) :
    (∃ nnn, i = .call nnn ∧ s.sp = 0 ∧ tr = .stackOverflow) ∨
    (i = .ret ∧ s.sp = s.stackCapacity ∧ tr = .stackUnderflow) ∨
    (∃ nnn, i = .jpV0 nnn ∧ 0xFFF < (s.reg 0).toNat + nnn.toNat ∧
      tr = .addressOutOfRange ((s.reg 0).toNat + nnn.toNat)) ∨
    (((∃ x y n, i = .drw x y n ∧ 0 < n.val ∧ 0xFFF < s.I.toNat + n.val - 1) ∨
      (∃ x, i = .ldB x ∧ 0xFFF < s.I.toNat + 2) ∨
      (∃ x, (i = .stRegs x ∨ i = .ldRegs x) ∧ 0xFFF < s.I.toNat + x.val)) ∧
      tr = .addressOutOfRange (if s.I.toNat > 0xFFF then s.I.toNat else 0x1000)) := by
  have block {n : Nat} (hb : (firstOutOfRange s.base n).map Trap.addressOutOfRange = some tr) :
      n ≠ 0 ∧ 4096 < s.I.toNat + n ∧ tr = .addressOutOfRange (if s.I.toNat > 0xFFF then s.I.toNat else 0x1000) := by
    obtain ⟨a, ha, rfl⟩ := Option.map_eq_some_iff.1 hb
    obtain ⟨n0, out, rfl⟩ := firstOutOfRange_eq_some.1 ha
    exact ⟨n0, out, rfl⟩
  cases i
  case call nnn =>
    obtain ⟨full, ⟨⟩⟩ := Option.ite_none_right_eq_some.1 h
    exact .inl ⟨nnn, rfl, full, rfl⟩
  case ret =>
    obtain ⟨empty, ⟨⟩⟩ := Option.ite_none_right_eq_some.1 h
    exact .inr (.inl ⟨rfl, empty, rfl⟩)
  case jpV0 nnn =>
    obtain ⟨outside, ⟨⟩⟩ := Option.ite_none_right_eq_some.1 h
    exact .inr (.inr (.inl ⟨nnn, rfl, outside, rfl⟩))
  case drw x y n =>
    obtain ⟨n0, out, traps⟩ := block h
    exact .inr (.inr (.inr ⟨.inl ⟨x, y, n, rfl, by omega, by omega⟩, traps⟩))
  case ldB x =>
    obtain ⟨_, out, traps⟩ := block h
    exact .inr (.inr (.inr ⟨.inr (.inl ⟨x, rfl, by omega⟩), traps⟩))
  case stRegs x =>
    obtain ⟨_, out, traps⟩ := block h
    exact .inr (.inr (.inr ⟨.inr (.inr ⟨x, .inl rfl, by omega⟩), traps⟩))
  case ldRegs x =>
    obtain ⟨_, out, traps⟩ := block h
    exact .inr (.inr (.inr ⟨.inr (.inr ⟨x, .inr rfl, by omega⟩), traps⟩))
  all_goals cases h

/-- A step from RUNNING into HALTED took one of the faults: of the fetch, of the decoder, or of the instruction's check. -/
theorem step_halted {s t : State} (hr : s.run = .running) (h : step s = .next t) (ht : t.run = .halted) :
    (4096 < s.pc.toNat + 2 ∧ t = s.raise (.addressOutOfRange (if s.pc.toNat > 0xFFF then s.pc.toNat else 0x1000))) ∨
    (s.pc.toNat + 2 ≤ 4096 ∧ decodeWord s.fetchWord = .illegal s.fetchWord ∧ t = s.raise (.decodeError s.fetchWord)) ∨
    (s.pc.toNat + 2 ≤ 4096 ∧ ∃ i tr, decodeWord s.fetchWord = .instr i ∧ trapOf i s = some tr ∧ t = s.raise tr) := by
  rcases step_cases h with ⟨idle, _⟩ | ⟨_, hpc, rfl⟩ | ⟨w, _, hpc, illegal, rfl⟩ | ⟨i, _, hpc, decoded, hexec⟩
  · exact absurd hr idle
  · exact .inl ⟨hpc, rfl⟩
  · obtain rfl := decodeWord_illegal illegal
    exact .inr (.inl ⟨hpc, illegal, rfl⟩)
  · obtain ⟨tr, trapped, rfl⟩ := exec_halted (by rw [hr]; exact nofun) hexec ht
    exact .inr (.inr ⟨hpc, i, tr, decoded, trapped, rfl⟩)

/-- Settles O17: every step from RUNNING into HALTED is a fault entry. -/
theorem faultsArePrecise : Obligations.FaultsArePrecise := by
  intro s t hr h ht
  have raised : ∃ tr, t = s.raise tr := by
    rcases step_halted hr h ht with ⟨_, e⟩ | ⟨_, _, e⟩ | ⟨_, _, tr, _, _, e⟩
    · exact ⟨_, e⟩
    · exact ⟨_, e⟩
    · exact ⟨tr, e⟩
  obtain ⟨tr, rfl⟩ := raised
  exact ⟨tr.cause_ne_none, s.faultEntry_raise tr⟩

/-- The recorded address is not cut off: a 16-bit base, or the first address outside memory. -/
theorem toNat_outOfRange_info (a : Word) :
    (Trap.addressOutOfRange (if a.toNat > 0xFFF then a.toNat else 0x1000)).info.toNat =
      if 0xFFF < a.toNat then a.toNat else 0x1000 := by
  rw [info_outOfRange]
  split <;> rfl

/-- Settles O18: the three faults of a step, the instruction's by its check. -/
theorem faultsComeFromTheirPlacesOnly : Obligations.FaultsComeFromTheirPlacesOnly := by
  intro s t hr h ht
  rcases step_halted hr h ht with ⟨hpc, rfl⟩ | ⟨hpc, illegal, rfl⟩ | ⟨hpc, i, tr, decoded, trapped, rfl⟩
  · exact .inl ⟨by omega, rfl, toNat_outOfRange_info s.pc⟩
  · exact .inr (.inl ⟨by omega, illegal, rfl, rfl⟩)
  · refine .inr (.inr ⟨by omega, i, decoded, ?_⟩)
    rcases trapOf_cases trapped with ⟨nnn, rfl, full, rfl⟩ | ⟨rfl, empty, rfl⟩ | ⟨nnn, rfl, outside, rfl⟩ | ⟨block, rfl⟩
    · exact .inl ⟨nnn, rfl, full, rfl, rfl⟩
    · exact .inr (.inl ⟨rfl, empty, rfl, rfl⟩)
    · exact .inr (.inr (.inl ⟨nnn, rfl, outside, rfl, toNat_v0Target nnn s⟩))
    · exact .inr (.inr (.inr ⟨block, rfl, toNat_outOfRange_info s.I⟩))

/-! ### The run state (R31, R178) -/

/-- Settles O19: a step idles in HALTED, Reset restarts, no wait is pending, and the other host moves keep the run state
and the fault registers. -/
theorem haltedIsLeftByResetOnly : Obligations.HaltedIsLeftByResetOnly := by
  intro m s t hr h
  cases m with
  | step =>
    rw [act, step_idle (by rw [hr]; exact nofun)] at h
    cases h
    exact ⟨nofun, fun _ => ⟨hr, rfl, rfl, rfl⟩, fun _ => rfl⟩
  | host m =>
    rcases hostMove_cases h with ⟨rfl, rfl⟩ | ⟨waits, _⟩ | ⟨_, run, _, pc, _, cause, info⟩
    · exact ⟨fun _ => ⟨rfl, rfl, rfl⟩, fun other => absurd rfl other, nofun⟩
    · rw [hr] at waits; cases waits
    · refine ⟨?_, fun _ => ⟨run.trans hr, cause, info, pc⟩, nofun⟩
      rintro ⟨⟩
      cases h
      exact ⟨rfl, rfl, rfl⟩

/-- Settles O20: a step that changes the run state was in RUNNING and halted or began to wait; a host move that does
resets or ends a wait. -/
theorem runStateChangesAreTheTables : Obligations.RunStateChangesAreTheTables := by
  intro m s t h changed
  cases m with
  | step =>
    rcases step_cases h with ⟨_, rfl⟩ | ⟨hr, _, rfl⟩ | ⟨w, hr, _, _, rfl⟩ | ⟨i, hr, hpc, decoded, hexec⟩
    · exact absurd rfl changed
    · exact .inr (.inr (.inl ⟨rfl, hr, rfl⟩))
    · exact .inr (.inr (.inl ⟨rfl, hr, rfl⟩))
    · rcases exec_run hexec with same | halts | ⟨waits, x, rfl⟩
      · exact absurd same changed
      · exact .inr (.inr (.inl ⟨rfl, hr, halts⟩))
      · exact .inr (.inr (.inr ⟨rfl, hr, waits, by omega, x, decoded⟩))
  | host m =>
    rcases hostMove_cases h with ⟨rfl, rfl⟩ | ⟨waits, k, rfl, rfl⟩ | ⟨_, same, _⟩
    · exact .inl ⟨rfl, rfl⟩
    · exact .inr (.inl ⟨waits, ⟨k, rfl⟩, rfl⟩)
    · exact absurd same changed

/-! ### Runs of moves (R59, R179, R197) -/

/-- What every allowed move keeps, any sequence of them keeps. -/
theorem runMoves_keeps {P : State → Prop} {ok : Move → Prop}
    (keep : ∀ {m s t}, ok m → P s → act m s = .next t → P t) {ms : List Move} {s t : State} (hs : P s)
    (h : runMoves ms s = .next t) (hms : ∀ m ∈ ms, ok m) : P t := by
  induction ms generalizing s with
  | nil => cases h; exact hs
  | cons m ms ih =>
    rw [runMoves] at h
    cases hm : act m s with
    | next u =>
      rw [hm] at h
      exact ih (keep (hms m (by simp)) hs hm) h fun m' hm' => hms m' (by simp [hm'])
    | fault r => rw [hm] at h; cases h
    | refused r => rw [hm] at h; cases h

/-- `t` waits for a key as `s` does: at the same `pc`, for the same register, with the same registers. -/
def WaitsAs (s t : State) : Prop := t.run = .awaitingKey ∧ t.pc = s.pc ∧ t.kx = s.kx ∧ t.V = s.V

/-- A move that is no key-down and no Reset keeps a core waiting. -/
theorem waitsAs_act {m : Move} {s t u : State} (hm : m ≠ .host .reset ∧ ∀ k, m ≠ .host (.keyDown k))
    (hw : WaitsAs s t) (h : act m t = .next u) : WaitsAs s u := by
  obtain ⟨waits, pc, kx, file⟩ := hw
  obtain ⟨not_reset, not_down⟩ := hm
  cases m with
  | step =>
    rw [act, step_idle (by rw [waits]; exact nofun)] at h
    cases h
    exact ⟨waits, pc, kx, file⟩
  | host m =>
    rcases hostMove_cases h with ⟨rfl, _⟩ | ⟨_, k, rfl, _⟩ | ⟨_, run', kx', pc', file', _⟩
    · exact absurd rfl not_reset
    · exact absurd rfl (not_down k)
    · exact ⟨run'.trans waits, pc'.trans pc, kx'.trans kx, file'.trans file⟩

/-- Settles O49: each allowed move keeps the wait, so any number of them does. -/
theorem onlyAKeyDownOrResetEndsTheWait : Obligations.OnlyAKeyDownOrResetEndsTheWait := by
  intro ms s t hr h hms
  obtain ⟨waits, pc, kx, file⟩ := runMoves_keeps (P := WaitsAs s) waitsAs_act ⟨hr, rfl, rfl, rfl⟩ h hms
  exact ⟨waits, pc, kx, KeepsRegs.of_file file⟩

/-- A jump to its own address changes nothing at all. -/
theorem step_at_self_jump {s : State} (h : s.AtSelfJump) : step s = .next s := by
  obtain ⟨hr, hpc, nnn, decoded, self⟩ := h
  have target : widenAddr nnn = s.pc := BitVec.eq_of_toNat_eq (by rw [toNat_widenAddr, self])
  rw [step_fetched hr (by omega), decoded, runDecoded, exec_jp, target, State.jump]

/-- A host move that is no Reset and no memory write keeps memory. -/
theorem hostMove_mem {m : HostMove} {s t : State} (hr : m ≠ .reset) (hb : ∀ a b, m ≠ .memWriteByte a b)
    (hw : ∀ a v, m ≠ .memWriteWord a v) (h : hostMove m s = .next t) : t.mem = s.mem := by
  cases m
  case reset => exact absurd rfl hr
  case memWriteByte a b => exact absurd rfl (hb a b)
  case memWriteWord a v => exact absurd rfl (hw a v)
  case keyDown k =>
    simp only [hostMove, hostKeyDown] at h
    split at h <;> cases h <;> rfl
  case memReadByte | memReadWord => obtain rfl := hostAccess_next h; rfl
  all_goals cases h; rfl

/-- A word is fetched from `pc` and memory only. -/
theorem State.fetchWord_congr {s t : State} (hpc : t.pc = s.pc) (hmem : t.mem = s.mem) : t.fetchWord = s.fetchWord := by
  rw [State.fetchWord, hpc, State.readByte_congr hmem, State.readByte_congr hmem, State.fetchWord]

/-- `t` is at the self-jump `s` is at, with the same registers. -/
def SelfJumpsAs (s t : State) : Prop := t.AtSelfJump ∧ t.pc = s.pc ∧ t.V = s.V

/-- A move that is no Reset and no memory write keeps a core at its self-jump. -/
theorem selfJumpsAs_act {m : Move} {s t u : State}
    (hm : m ≠ .host .reset ∧ (∀ a b, m ≠ .host (.memWriteByte a b)) ∧ ∀ a v, m ≠ .host (.memWriteWord a v))
    (hj : SelfJumpsAs s t) (h : act m t = .next u) : SelfJumpsAs s u := by
  obtain ⟨self, pc, file⟩ := hj
  obtain ⟨not_reset, not_byte, not_word⟩ := hm
  cases m with
  | step =>
    rw [act, step_at_self_jump self] at h
    cases h
    exact ⟨self, pc, file⟩
  | host m =>
    obtain ⟨hr, hpc, nnn, decoded, target⟩ := self
    have mem : u.mem = t.mem := hostMove_mem (fun e => not_reset (e ▸ rfl)) (fun a b e => not_byte a b (e ▸ rfl))
      (fun a v e => not_word a v (e ▸ rfl)) h
    rcases hostMove_cases h with ⟨rfl, _⟩ | ⟨waits, _⟩ | ⟨_, run', _, pc', file', _⟩
    · exact absurd rfl not_reset
    · rw [hr] at waits; cases waits
    · refine ⟨⟨run'.trans hr, pc' ▸ hpc, nnn, ?_, pc' ▸ target⟩, pc'.trans pc, file'.trans file⟩
      rw [State.fetchWord_congr pc' mem, decoded]

/-- Settles O52: each allowed move leaves the core at its self-jump, so any number of them does. -/
theorem selfJumpStaysPut : Obligations.SelfJumpStaysPut := by
  intro ms s t self h hms
  obtain ⟨self', pc, file⟩ := runMoves_keeps (P := SelfJumpsAs s) selfJumpsAs_act ⟨self, rfl, rfl⟩ h hms
  exact ⟨self', pc, KeepsRegs.of_file file⟩

end Sys2Proof.Machine
end

section
/-! The control-flow instructions with a check or a condition (spec 40_control_flow.md R100, R101, R103 to R108). -/

namespace Sys2Proof.Machine

/-- `pc + 2` and nothing else (R109). -/
theorem State.advance_frame (s : State) : KeepsRegs [] s s.advance ∧ KeepsParts [] s s.advance :=
  ⟨KeepsRegs.of_file s.advance_V, KeepsParts.of_fields⟩

/-- Settles O21: SYS is an advance. -/
theorem sysOnlyAdvances : Obligations.SysOnlyAdvances := by
  intro nnn s
  exact ⟨s.advance, rfl, s.advance_pc, s.advance_frame⟩

/-! ### The stack (R101, R103) -/

/-- RET on the empty stack takes StackUnderflow. -/
theorem exec_ret_empty {s : State} (h : s.sp = s.stackCapacity) : exec .ret s = .next (s.raise .stackUnderflow) :=
  exec_trap (if_pos h)

/-- RET on a stack that is not empty pops into `pc`. -/
theorem exec_ret {s : State} (h : s.sp ≠ s.stackCapacity) : exec .ret s = .next (s.pop.jump (s.slot s.sp)) :=
  exec_completed (i := .ret) (if_neg h)

/-- CALL on the full stack takes StackOverflow. -/
theorem exec_call_full (nnn : Addr12) {s : State} (h : s.sp = 0) :
    exec (.call nnn) s = .next (s.raise .stackOverflow) :=
  exec_trap (if_pos h)

/-- CALL on a stack that is not full pushes the return address and jumps. -/
theorem exec_call (nnn : Addr12) {s : State} (h : s.sp ≠ 0) :
    exec (.call nnn) s = .next ((s.push (s.pc + 2)).jump (widenAddr nnn)) :=
  exec_completed (i := .call nnn) (if_neg h)

/-- A push and a jump change the stack and `pc` only. -/
theorem State.push_jump_frame (s : State) (v a : Word) :
    ((s.push v).jump a).stackCapacity = s.stackCapacity ∧ KeepsRegs [] s ((s.push v).jump a) ∧
      KeepsParts [.stack] s ((s.push v).jump a) :=
  ⟨s.stackCapacity_push v, KeepsRegs.of_file rfl, KeepsParts.of_fields (params := fun _ => ⟨rfl, s.stackCapacity_push v⟩)⟩

/-- A pop and a jump change the stack and `pc` only. -/
theorem State.pop_jump_frame (s : State) (a : Word) :
    (s.pop.jump a).stackCapacity = s.stackCapacity ∧ KeepsRegs [] s (s.pop.jump a) ∧
      KeepsParts [.stack] s (s.pop.jump a) :=
  ⟨s.stackCapacity_pop, KeepsRegs.of_file rfl, KeepsParts.of_fields (params := fun _ => ⟨rfl, s.stackCapacity_pop⟩)⟩

/-- Settles O22: the empty stack faults; else the slot at `sp` is popped and cleared. -/
theorem retPopsOrUnderflows : Obligations.RetPopsOrUnderflows := by
  intro s
  refine ⟨fun empty => ⟨_, exec_ret_empty empty, s.faultEntry_raise .stackUnderflow⟩, fun live => ?_⟩
  have cleared : (s.pop.jump (s.slot s.sp)).slot s.sp = 0 := by
    rw [State.slot_jump, State.slot_pop, if_pos rfl]
  have kept (j : Nat) (hj : j ≠ s.sp) : (s.pop.jump (s.slot s.sp)).slot j = s.slot j := by
    rw [State.slot_jump, State.slot_pop, if_neg hj]
  exact ⟨_, exec_ret (by omega), rfl, rfl, cleared, kept, s.pop_jump_frame _⟩

/-- Settles O24: the full stack faults; else the slot below `sp` takes the return address. -/
theorem callPushesOrOverflows : Obligations.CallPushesOrOverflows := by
  intro nnn s hsp
  refine ⟨fun full => ⟨_, exec_call_full nnn full, s.faultEntry_raise .stackOverflow⟩, fun free => ?_⟩
  have pushed : ((s.push (s.pc + 2)).jump (widenAddr nnn)).slot (s.sp - 1) = s.pc + 2 := by
    rw [State.slot_jump, State.slot_push, if_pos ⟨rfl, by omega⟩]
  have kept (j : Nat) (hj : j ≠ s.sp - 1) : ((s.push (s.pc + 2)).jump (widenAddr nnn)).slot j = s.slot j := by
    rw [State.slot_jump, State.slot_push, if_neg fun e => hj e.1]
  exact ⟨_, exec_call nnn free, toNat_widenAddr nnn, by simp; omega, pushed, kept, s.push_jump_frame _ _⟩

/-- Settles O25: RET pops the slot that CALL pushed (O24), and clears it (O22). -/
theorem callThenRetReturns : Obligations.CallThenRetReturns := by
  intro nnn s hsp free
  obtain ⟨t, call, _, below, pushed, kept, capacity, _⟩ := (callPushesOrOverflows nnn s hsp).2 free
  refine ⟨t, call, fun u same_sp same_stack => ?_⟩
  have slots (j : Nat) : u.slot j = t.slot j := State.slot_congr same_stack j
  have live : u.sp < u.stackCapacity := by
    have : u.stackCapacity = t.stackCapacity := congrArg List.length same_stack
    omega
  obtain ⟨v, ret, popped, above, cleared, kept', _⟩ := (retPopsOrUnderflows u).2 live
  have vacated : s.sp - 1 = u.sp := by omega
  refine ⟨v, ret, ?_, by omega, vacated ▸ cleared, fun j hj => ?_⟩
  · rw [popped, slots, same_sp, pushed]
  · rw [kept' j (vacated ▸ hj), slots, kept j (by omega)]

/-! ### Compare skips and JP V0 (R104 to R108) -/

/-- A skip's effect, with the condition as a proposition (R109). -/
theorem State.skipIf_effect (s : State) {c : Bool} {p : Prop} [Decidable p] (h : c = true ↔ p) :
    (s.skipIf c).pc = s.pc + (if p then 4 else 2) ∧ KeepsRegs [] s (s.skipIf c) ∧ KeepsParts [] s (s.skipIf c) :=
  ⟨by simp only [State.skipIf_pc, h], s.skipIf_frame c⟩

/-- A skip's effect, with the negated condition as a proposition. -/
theorem State.skipIf_not_effect (s : State) {c : Bool} {p : Prop} [Decidable p] (h : c = true ↔ ¬ p) :
    (s.skipIf c).pc = s.pc + (if p then 2 else 4) ∧ KeepsRegs [] s (s.skipIf c) ∧ KeepsParts [] s (s.skipIf c) :=
  ⟨by simp only [State.skipIf_pc, h, ite_not], s.skipIf_frame c⟩

/-- Settles O26: SE skips on equal bytes, SNE on different ones. -/
theorem compareSkipsMovePcOnly : Obligations.CompareSkipsMovePcOnly := by
  intro x y kk s
  have same (a b : Byte) : (a == b) = true ↔ a.toNat = b.toNat := by rw [beq_iff_eq, BitVec.toNat_inj]
  have differ (a b : Byte) : (a != b) = true ↔ ¬ a.toNat = b.toNat := by rw [bne_iff_ne, ne_eq, BitVec.toNat_inj]
  exact ⟨⟨_, rfl, s.skipIf_effect (same _ _)⟩, ⟨_, rfl, s.skipIf_not_effect (differ _ _)⟩,
    ⟨_, rfl, s.skipIf_effect (same _ _)⟩, ⟨_, rfl, s.skipIf_not_effect (differ _ _)⟩⟩

/-- Settles O28: the check is on V0 + nnn; in memory it is a jump there. -/
theorem jpV0JumpsOrFaults : Obligations.JpV0JumpsOrFaults := by
  intro nnn s
  refine ⟨fun inside => ?_, fun outside => ?_⟩
  · exact ⟨_, exec_completed (i := .jpV0 nnn) (if_neg (Nat.not_lt.2 inside)), toNat_v0Target nnn s, s.jump_frame _⟩
  · exact ⟨_, exec_trap (i := .jpV0 nnn) (if_pos outside), s.faultEntry_raise _⟩

end Sys2Proof.Machine
end

section
/-! The logic, arithmetic and shift instructions, and who writes VF (spec 41_alu.md section 3, 10_state.md section 2). -/

namespace Sys2Proof.Machine

/-- Settles O31: each is one register write, of the bitwise combination. -/
theorem bitwiseWritesVxOnly : Obligations.BitwiseWritesVxOnly := by
  intro x y s
  obtain ⟨written_or, or_frame⟩ := s.setReg_advance_effect x (s.reg x ||| s.reg y)
  obtain ⟨written_and, and_frame⟩ := s.setReg_advance_effect x (s.reg x &&& s.reg y)
  obtain ⟨written_xor, xor_frame⟩ := s.setReg_advance_effect x (s.reg x ^^^ s.reg y)
  refine ⟨⟨_, rfl, fun b => ?_, or_frame⟩, ⟨_, rfl, fun b => ?_, and_frame⟩, ⟨_, rfl, fun b => ?_, xor_frame⟩⟩
  · rw [written_or, BitVec.getLsbD_or]
  · rw [written_and, BitVec.getLsbD_and]
  · rw [written_xor, BitVec.getLsbD_xor]

/-- The flag and result writes and the `pc` increment that the five flag-writing instructions share (R131). -/
theorem State.setFlagThenReg_advance_effect (s : State) (x : RegIdx) (c : Bool) (b : Byte) :
    (s.setFlagThenReg x c b).advance.reg x = b ∧
      (x.val ≠ 15 → ((s.setFlagThenReg x c b).advance.reg 15).toNat = if c then 1 else 0) ∧
      (s.setFlagThenReg x c b).advance.pc = s.pc + 2 ∧
      KeepsRegs [x, 15] s (s.setFlagThenReg x c b).advance ∧ KeepsParts [] s (s.setFlagThenReg x c b).advance := by
  refine ⟨?_, fun hx => ?_, rfl, KeepsRegs.of_setFlagThenReg (State.advance_V _), KeepsParts.of_fields⟩
  · rw [State.reg_advance, State.reg_setFlagThenReg, if_pos rfl]
  · have other : ¬ (15 : RegIdx) = x := fun e => hx (e ▸ rfl)
    rw [State.reg_advance, State.reg_setFlagThenReg, if_neg other, if_pos (show (15 : RegIdx) = vf from rfl), toNat_flagByte]

/-- Settles O32: the wrapped sum, and the flag that the sum is above 255. -/
theorem addSetsCarry : Obligations.AddSetsCarry := by
  intro x y s
  obtain ⟨written, flag, frame⟩ :=
    s.setFlagThenReg_advance_effect x (carryOut (s.reg x) (s.reg y)) (s.reg x + s.reg y)
  refine ⟨_, rfl, ?_, fun hx => ?_, frame⟩
  · rw [written, BitVec.toNat_add]
  · rw [flag hx]; simp only [carryOut, gt_iff_lt, decide_eq_true_eq]

/-- Byte subtraction, on numbers. -/
theorem toNat_byte_sub (a b : Byte) : (a - b).toNat = (a.toNat + 256 - b.toNat) % 256 := by
  have := b.isLt
  rw [BitVec.toNat_sub]
  congr 1
  omega

/-- Settles O33: the wrapped difference, and the strict comparison as the flag. -/
theorem subtractionsSetStrictGreater : Obligations.SubtractionsSetStrictGreater := by
  intro x y s
  obtain ⟨written, flag, frame⟩ :=
    s.setFlagThenReg_advance_effect x (greater (s.reg x) (s.reg y)) (s.reg x - s.reg y)
  obtain ⟨written', flag', frame'⟩ :=
    s.setFlagThenReg_advance_effect x (greater (s.reg y) (s.reg x)) (s.reg y - s.reg x)
  refine ⟨⟨_, rfl, ?_, fun hx => ?_, frame⟩, ⟨_, rfl, ?_, fun hx => ?_, frame'⟩⟩
  · rw [written, toNat_byte_sub]
  · rw [flag hx]; simp only [greater, gt_iff_lt, decide_eq_true_eq]
  · rw [written', toNat_byte_sub]
  · rw [flag' hx]; simp only [greater, gt_iff_lt, decide_eq_true_eq]

/-- The bit a right shift loses is the parity. -/
theorem shiftedOutRight_flag (a : Byte) : (if shiftedOutRight a then 1 else 0) = a.toNat % 2 := by
  simp only [shiftedOutRight, BitVec.getLsbD, Nat.testBit_zero, decide_eq_true_eq]
  split <;> omega

/-- The bit a left shift loses is the top bit. -/
theorem shiftedOutLeft_flag (a : Byte) : (if shiftedOutLeft a then 1 else 0) = a.toNat / 128 := by
  have := a.isLt
  simp only [shiftedOutLeft, BitVec.getLsbD, Nat.testBit_eq_decide_div_mod_eq, decide_eq_true_eq]
  split <;> omega

/-- Settles O34: halving and doubling modulo 256, with the lost bit as the flag. -/
theorem shiftsMoveOneBitOut : Obligations.ShiftsMoveOneBitOut := by
  intro x y s
  obtain ⟨written, flag, frame⟩ :=
    s.setFlagThenReg_advance_effect x (shiftedOutRight (s.reg x)) (s.reg x >>> 1)
  obtain ⟨written', flag', frame'⟩ :=
    s.setFlagThenReg_advance_effect x (shiftedOutLeft (s.reg x)) (s.reg x <<< 1)
  refine ⟨⟨_, rfl, ?_, fun hx => ?_, frame⟩, ⟨_, rfl, ?_, fun hx => ?_, frame'⟩⟩
  · rw [written, BitVec.toNat_ushiftRight, Nat.shiftRight_one]
  · rw [flag hx, shiftedOutRight_flag]
  · rw [written', BitVec.toNat_shiftLeft, Nat.shiftLeft_eq, pow_one, Nat.mul_comm]
  · rw [flag' hx, shiftedOutLeft_flag]

/-! ### Who writes VF (R22) -/

/-- A register that a write to `Vx` changed is `Vx`. -/
theorem State.eq_of_setReg_advance_ne {s : State} {x r : RegIdx} {b : Byte}
    (h : (s.setReg x b).advance.reg r ≠ s.reg r) : x = r := by
  by_contra hx
  exact h (by rw [State.reg_advance, State.reg_setReg_other s (Ne.symm hx)])

/-- The last register that a block load of V0 to Vx can change is Vx. -/
theorem eq_of_loads_vf {x : RegIdx} {s : State} (h : (completed (.ldRegs x) s).reg 15 ≠ s.reg 15) : x = 15 := by
  by_contra hx
  have below : ¬ ((15 : RegIdx).val < (s.readBytes s.base (x.val + 1)).length) := by
    have : x.val ≠ 15 := fun e => hx (Fin.ext e)
    have := x.isLt
    rw [State.length_readBytes]
    show ¬ 15 < x.val + 1
    omega
  exact h ((State.reg_setRegsFrom0 s _ 15).trans (if_neg below))

/-- Settles O35: an instruction that writes one register writes VF only as that register; the flag writers are named; no
other writes a register. -/
theorem onlySixInstructionsWriteVFAsAFlag : Obligations.OnlySixInstructionsWriteVFAsAFlag := by
  intro i s t h changed
  rcases exec_cases h with ⟨tr, _, rfl⟩ | ⟨done, rfl⟩
  · exact absurd (s.reg_raise tr 15) changed
  clear h done
  cases i
  case addReg x y => exact .inl ⟨x, y, .inl rfl⟩
  case subReg x y => exact .inl ⟨x, y, .inr (.inl rfl)⟩
  case subnReg x y => exact .inl ⟨x, y, .inr (.inr (.inl rfl))⟩
  case shr x y => exact .inl ⟨x, y, .inr (.inr (.inr (.inl rfl)))⟩
  case shl x y => exact .inl ⟨x, y, .inr (.inr (.inr (.inr rfl)))⟩
  case drw x y n => exact .inr (.inl ⟨x, y, n, rfl⟩)
  case ldByte x kk =>
    obtain rfl := State.eq_of_setReg_advance_ne changed
    exact .inr (.inr (.inl ⟨kk, .inl rfl⟩))
  case addByte x kk =>
    obtain rfl := State.eq_of_setReg_advance_ne changed
    exact .inr (.inr (.inl ⟨kk, .inr (.inl rfl)⟩))
  case rnd x kk =>
    obtain rfl := State.eq_of_setReg_advance_ne (s := s.advanceRng) changed
    exact .inr (.inr (.inl ⟨kk, .inr (.inr rfl)⟩))
  case ldReg x y =>
    obtain rfl := State.eq_of_setReg_advance_ne changed
    exact .inr (.inr (.inr (.inl ⟨y, .inl rfl⟩)))
  case orReg x y =>
    obtain rfl := State.eq_of_setReg_advance_ne changed
    exact .inr (.inr (.inr (.inl ⟨y, .inr (.inl rfl)⟩)))
  case andReg x y =>
    obtain rfl := State.eq_of_setReg_advance_ne changed
    exact .inr (.inr (.inr (.inl ⟨y, .inr (.inr (.inl rfl))⟩)))
  case xorReg x y =>
    obtain rfl := State.eq_of_setReg_advance_ne changed
    exact .inr (.inr (.inr (.inl ⟨y, .inr (.inr (.inr rfl))⟩)))
  case ldVxDT x =>
    obtain rfl := State.eq_of_setReg_advance_ne changed
    exact .inr (.inr (.inr (.inr (.inl rfl))))
  case ldRegs x => exact .inr (.inr (.inr (.inr (.inr (congrArg Instr.ldRegs (eq_of_loads_vf changed))))))
  case seByte | sneByte | seReg | sneReg | skp | sknp => exact absurd (s.reg_skipIf _ 15) changed
  all_goals exact absurd rfl changed

end Sys2Proof.Machine
end

section
/-! The memory and index instructions (spec 42_memory_index.md R141 to R146). -/

namespace Sys2Proof.Machine

/-! ### The address register (R141, R143) -/

/-- Settles O37: one write of `I`, of the wrapped sum. -/
theorem addIWrapsAtSixteenBits : Obligations.AddIWrapsAtSixteenBits := by
  intro x s
  obtain ⟨written, frame⟩ := s.setI_advance_effect (s.I + widenByte (s.reg x))
  refine ⟨_, rfl, ?_, frame⟩
  rw [written, BitVec.toNat_add, toNat_widenByte]

/-- A glyph's address does not wrap when the font fits below 0x200. -/
theorem State.toNat_glyphAddress {s : State} (h : s.fontBase.toNat + 16 * 5 ≤ 0x200) (d : Fin 16) :
    (s.glyphAddress d).toNat = s.fontBase.toNat + 5 * d.val := by
  have := d.isLt
  rw [State.glyphAddress, Params.fontStride, BitVec.toNat_add, BitVec.toNat_ofNat]
  omega

/-- Settles O38: one write of `I`, of the address of the glyph of the low nibble. -/
theorem ldFPointsAtTheGlyph : Obligations.LdFPointsAtTheGlyph := by
  intro x s font
  obtain ⟨written, frame⟩ := s.setI_advance_effect (s.glyphAddress (lowNibble (s.reg x)))
  have glyph : (s.setI (s.glyphAddress (lowNibble (s.reg x)))).advance.I.toNat =
      s.fontBase.toNat + 5 * ((s.reg x).toNat % 16) := by
    rw [written, s.toNat_glyphAddress font, val_lowNibble]
  exact ⟨_, rfl, glyph, by omega, frame⟩

/-! ### Blocks through `I` (R142, R144 to R146) -/

/-- A block that does not end above 0xFFF passes its check. -/
theorem block_fits {a n : Nat} (h : a + n ≤ 4096) :
    (firstOutOfRange a n).map Trap.addressOutOfRange = none := by
  rw [firstOutOfRange_eq_none.2 (.inr h), Option.map_none]

/-- A block that ends above 0xFFF fails its check with the first address outside. -/
theorem block_leaves {a n : Nat} (h0 : n ≠ 0) (h : 4096 < a + n) :
    (firstOutOfRange a n).map Trap.addressOutOfRange =
      some (.addressOutOfRange (if a > 0xFFF then a else 0x1000)) := by
  rw [firstOutOfRange_eq_some.2 ⟨h0, h, rfl⟩, Option.map_some]

/-- A block write inside memory and the `pc` increment after it. -/
theorem State.writeBytes_advance_effect (s : State) {a : Nat} {bs : List Byte} (h : a + bs.length ≤ 4096) :
    (∀ j, j < bs.length → (s.writeBytes a bs).advance.readByte (a + j) = bs.getD j 0) ∧
      (∀ c, c < a ∨ a + bs.length ≤ c → (s.writeBytes a bs).advance.readByte c = s.readByte c) ∧
      (s.writeBytes a bs).advance.pc = s.pc + 2 ∧
      KeepsRegs [] s (s.writeBytes a bs).advance ∧ KeepsParts [.memory] s (s.writeBytes a bs).advance := by
  refine ⟨fun j hj => ?_, fun c hc => ?_, rfl, KeepsRegs.of_file rfl, KeepsParts.of_fields⟩
  · rw [State.readByte_advance, s.readByte_writeBytes h, if_pos ⟨by omega, by omega⟩, Nat.add_sub_cancel_left]
  · rw [State.readByte_advance, s.readByte_writeBytes h, if_neg (by omega)]

/-- Settles O39: a three-byte block write of the digits, or the fault of its check. -/
theorem ldBStoresThreeDigits : Obligations.LdBStoresThreeDigits := by
  intro x s
  refine ⟨fun inside => ?_, fun outside => ?_⟩
  · obtain ⟨written, kept, frame⟩ := s.writeBytes_advance_effect (bs := decimalDigits (s.reg x))
      (show s.I.toNat + 3 ≤ 4096 by omega)
    have digit (d : Nat) (hd : d ≤ (s.reg x).toNat) : (BitVec.ofNat 8 d).toNat = d := by
      have := (s.reg x).isLt
      rw [BitVec.toNat_ofNat, Nat.mod_eq_of_lt (by omega)]
    have hundreds := written 0 (show 0 < 3 by decide)
    have tens := written 1 (show 1 < 3 by decide)
    have units := written 2 (show 2 < 3 by decide)
    refine ⟨_, exec_completed (i := .ldB x) (block_fits (show s.I.toNat + 3 ≤ 4096 by omega)), ?_, ?_, ?_,
      fun a ha => kept a (show a < s.I.toNat ∨ s.I.toNat + 3 ≤ a by omega), frame⟩
    · exact (congrArg BitVec.toNat hundreds).trans (digit _ (Nat.div_le_self _ _))
    · exact (congrArg BitVec.toNat tens).trans (digit _ ((Nat.mod_le _ _).trans (Nat.div_le_self _ _)))
    · exact (congrArg BitVec.toNat units).trans (digit _ (Nat.mod_le _ _))
  · exact ⟨_, exec_trap (i := .ldB x) (block_leaves (by decide) (show 4096 < s.I.toNat + 3 by omega)),
      s.faultEntry_block s.I⟩

/-- LD [I], Vx whose block fits. -/
theorem exec_stRegs {x : RegIdx} {s : State} (h : s.I.toNat + x.val ≤ 0xFFF) :
    exec (.stRegs x) s = .next (s.writeBytes s.base (s.regsUpTo x)).advance :=
  exec_completed (i := .stRegs x) (block_fits (show s.I.toNat + (x.val + 1) ≤ 4096 by omega))

/-- LD Vx, [I] whose block fits. -/
theorem exec_ldRegs {x : RegIdx} {s : State} (h : s.I.toNat + x.val ≤ 0xFFF) :
    exec (.ldRegs x) s = .next (s.setRegsFrom0 (s.readBytes s.base (x.val + 1))).advance :=
  exec_completed (i := .ldRegs x) (block_fits (show s.I.toNat + (x.val + 1) ≤ 4096 by omega))

/-- Settles O40: a block write of V0 to Vx, or the fault of its check. -/
theorem storeWritesV0ToVx : Obligations.StoreWritesV0ToVx := by
  intro x s
  refine ⟨fun inside => ?_, fun outside => ?_⟩
  · have len : (s.regsUpTo x).length = x.val + 1 := s.length_regsUpTo x
    obtain ⟨written, kept, frame⟩ := s.writeBytes_advance_effect (a := s.I.toNat) (bs := s.regsUpTo x) (by omega)
    refine ⟨_, exec_stRegs inside, fun j hj => ?_, fun a ha => kept a (by omega), frame⟩
    exact (written j.val (by omega)).trans (s.getD_regsUpTo hj)
  · exact ⟨_, exec_trap (i := .stRegs x) (block_leaves (Nat.succ_ne_zero _) (show 4096 < s.I.toNat + (x.val + 1) by omega)),
      s.faultEntry_block s.I⟩

/-- Settles O41: a block read into V0 to Vx, or the fault of its check. -/
theorem loadReadsV0ToVx : Obligations.LoadReadsV0ToVx := by
  intro x s
  refine ⟨fun inside => ?_, fun outside => ?_⟩
  · have loaded (j : RegIdx) : (s.setRegsFrom0 (s.readBytes s.base (x.val + 1))).advance.reg j =
        if j.val < x.val + 1 then (s.readBytes s.base (x.val + 1)).getD j.val 0 else s.reg j := by
      rw [State.reg_advance, State.reg_setRegsFrom0, State.length_readBytes]
    refine ⟨_, exec_ldRegs inside, fun j hj => ?_, fun j hj => ?_, rfl, KeepsParts.of_fields⟩
    · rw [loaded, if_pos (by omega), State.getD_readBytes _ _ (by omega), State.base]
    · rw [loaded, if_neg (by omega)]
  · exact ⟨_, exec_trap (i := .ldRegs x) (block_leaves (Nat.succ_ne_zero _) (show 4096 < s.I.toNat + (x.val + 1) by omega)),
      s.faultEntry_block s.I⟩

/-- Settles O42: the load (O41) reads the bytes that the store (O40) wrote, and neither changes `I`. -/
theorem storeThenLoadGivesTheRegistersBack : Obligations.StoreThenLoadGivesTheRegistersBack := by
  intro x s inside
  obtain ⟨t, store, stored, _, _, _, store_parts⟩ := (storeWritesV0ToVx x s).1 inside
  refine ⟨t, store, fun u same_mem same_I => ?_⟩
  have base : u.I = s.I := same_I.trans (store_parts .index (by decide))
  obtain ⟨v, load, loaded, above, _, load_parts⟩ := (loadReadsV0ToVx x u).1 (base ▸ inside)
  refine ⟨v, load, fun j hj => ?_, above, fun a => ?_, (load_parts .index (by decide)).trans base⟩
  · rw [loaded j hj, same_mem, base, stored j hj]
  · exact (load_parts .memory (by decide) a).trans (same_mem a)

/-- Settles O43: the fetch reads the bytes at `pc` and `pc + 1`, which the store (O40) wrote. -/
theorem storedBytesAreFetched : Obligations.StoredBytesAreFetched := by
  intro x j s inside hj
  obtain ⟨t, store, stored, _⟩ := (storeWritesV0ToVx x s).1 inside
  refine ⟨t, store, fun high => ?_, fun low => ?_⟩
  · rw [fetchWord_hiByte, ← high, stored j hj]
  · rw [fetchWord_loByte, ← low, stored j hj]

end Sys2Proof.Machine
end

section
/-! The random source, the key wait, the timers, and the host's ports (spec 43_timers_random_input.md R150, R154;
60_exceptions.md R182 to R190). -/

namespace Sys2Proof.Machine

/-! ### The random source (R150, R190) -/

/-- RND writes the masked next byte of the source and makes one draw (R150). -/
theorem exec_rnd (x : RegIdx) (kk : Byte) (s : State) :
    exec (.rnd x kk) s = .next (s.advanceRng.setReg x (s.randomByte &&& kk)).advance := rfl

/-- Settles O45: the byte is the free value of the source's seed and draw count. -/
theorem rndDrawsOneMaskedByte : Obligations.RndDrawsOneMaskedByte := by
  intro seed draws
  refine ⟨Config.randomByte seed draws, fun x kk s source => ⟨_, exec_rnd x kk s, fun b => ?_, ?_, rfl,
    KeepsRegs.of_setReg (State.advance_V _), KeepsParts.of_fields⟩⟩
  · rw [State.reg_advance, State.reg_setReg_same, BitVec.getLsbD_and, State.randomByte, source]
  · rw [State.advance_rng, State.setReg_rng, State.advanceRng_rng, source]

/-- Settles O46: Seed replaces the random source alone. -/
theorem seedRestartsTheSource : Obligations.SeedRestartsTheSource := by
  intro n s
  exact ⟨_, rfl, rfl, rfl, KeepsRegs.of_file rfl, KeepsParts.of_fields⟩

/-! ### The key wait (R154, R182, R183) -/

/-- Settles O47: LD Vx, K sets the run state and `kx` alone. -/
theorem ldVxKBeginsToWait : Obligations.LdVxKBeginsToWait := by
  intro x s
  exact ⟨s.awaitKey x, rfl, rfl, rfl, rfl, rfl, rfl, KeepsRegs.of_file (s.awaitKey_V x), KeepsParts.of_fields⟩

/-- The latch after one of its bits is written. -/
theorem State.setKey_latch (s : State) (k : KeyIdx) (c : Bool) :
    (s.setKey k c).keyDown? k = c ∧ ∀ j, j ≠ k → (s.setKey k c).keyDown? j = s.keyDown? j :=
  ⟨by rw [State.keyDown?_setKey, if_pos rfl], fun j hj => by rw [State.keyDown?_setKey, if_neg hj]⟩

/-- A write of the latch changes no register, no `pc` and no other part. -/
theorem State.setKey_frame (s : State) (k : KeyIdx) (c : Bool) :
    KeepsRegs [] s (s.setKey k c) ∧ KeepsParts [.keys] s (s.setKey k c) :=
  ⟨KeepsRegs.of_file (s.setKey_V k c), KeepsParts.of_fields⟩

/-- A key's number fits a register. -/
theorem toNat_keyNumber (k : KeyIdx) : (keyNumber k).toNat = k.val := by
  have := k.isLt
  rw [keyNumber, BitVec.toNat_ofNat, Nat.mod_eq_of_lt (by omega)]

/-- KeyDown while no key is awaited sets the latch bit. -/
theorem hostKeyDown_not_waiting {s : State} (h : s.run ≠ .awaitingKey) (k : KeyIdx) :
    hostMove (.keyDown k) s = .next (s.setKey k true) :=
  congrArg _ (if_neg h)

/-- KeyDown while a key is awaited also ends the wait. -/
theorem hostKeyDown_waiting {s : State} (h : s.run = .awaitingKey) (k : KeyIdx) :
    hostMove (.keyDown k) s = .next (((s.setKey k true).setReg s.kx (keyNumber k)).advance).endWait :=
  congrArg _ (if_pos h)

/-- Settles O48: a key-down by the run state it finds, a key-up in every run state. -/
theorem keyEventsSetTheLatchAndEndTheWait : Obligations.KeyEventsSetTheLatchAndEndTheWait := by
  intro k s
  obtain ⟨pressed, others⟩ := s.setKey_latch k true
  obtain ⟨released, others'⟩ := s.setKey_latch k false
  refine ⟨?_, _, rfl, released, others', rfl, s.setKey_frame k false⟩
  by_cases hr : s.run = .awaitingKey
  · refine ⟨_, hostKeyDown_waiting hr k, pressed, others, fun other => absurd hr other, fun _ => ⟨?_, rfl, rfl, rfl, rfl, rfl,
      KeepsRegs.of_setReg (x := s.kx) (b := keyNumber k) rfl, KeepsParts.of_fields⟩⟩
    rw [State.reg_endWait, State.reg_advance, State.reg_setReg_same, toNat_keyNumber]
  · exact ⟨_, hostKeyDown_not_waiting hr k, pressed, others, fun _ => ⟨rfl, s.setKey_frame k true⟩,
      fun waits => absurd waits hr⟩

/-! ### The timers (R28, R184) -/

/-- A tick takes one, with floor 0. -/
theorem toNat_tick (t : Byte) : (tick t).toNat = t.toNat - 1 := by
  unfold tick
  split
  · have := t.isLt
    rw [toNat_byte_sub]
    show (t.toNat + 256 - 1) % 256 = _
    omega
  · omega

/-- Settles O50: both timers tick, and nothing else is written. -/
theorem tickDecrementsBothTimers : Obligations.TickDecrementsBothTimers := by
  intro s
  exact ⟨_, rfl, toNat_tick s.DT, toNat_tick s.ST, rfl, KeepsRegs.of_file rfl, KeepsParts.of_fields⟩

/-- No check looks at ST. -/
theorem trapOf_setST (i : Instr) (s : State) (b : Byte) : trapOf i (s.setST b) = trapOf i s := by
  cases i <;> rfl

/-- A skip does not look at ST. -/
theorem State.skipIf_setST (s : State) (b : Byte) (c : Bool) :
    ((s.setST b).skipIf c).setST (s.skipIf c).ST = s.skipIf c := by
  cases c <;> rfl

/-- A completed instruction makes the same state but for ST, whatever ST was. -/
theorem completed_setST (i : Instr) (s : State) (b : Byte) :
    (completed i (s.setST b)).setST (completed i s).ST = completed i s := by
  cases i
  case seByte | sneByte | seReg | sneReg | skp | sknp => exact s.skipIf_setST b _
  all_goals rfl

/-- Settles O51: with another ST the same check is made, and fault entry or completion differ in ST alone. -/
theorem soundTimerIsInvisible : Obligations.SoundTimerIsInvisible := by
  intro i s b
  cases trap : trapOf i s with
  | none => exact ⟨_, _, exec_completed trap, exec_completed ((trapOf_setST i s b).trans trap), completed_setST i s b⟩
  | some tr => exact ⟨_, _, exec_trap trap, exec_trap ((trapOf_setST i s b).trans trap), rfl⟩

/-! ### The host's memory port and reads (R186 to R189) -/

/-- A host access in memory happens. -/
theorem hostAccess_ok {a n : Nat} (k : State) (h : a + n ≤ 4096) : hostAccess a n k = .next k := by
  rcases hostAccess_cases a n k with ⟨_, e⟩ | ⟨_, out, _⟩
  · exact e
  · omega

/-- A host access outside memory is no move. -/
theorem hostAccess_outside {a n : Nat} (k : State) (h0 : n ≠ 0) (h : 4096 < a + n) :
    ∃ r, hostAccess a n k = .fault r := by
  rcases hostAccess_cases a n k with ⟨fits, _⟩ | ⟨_, _, e⟩
  · omega
  · exact ⟨_, e⟩

theorem toNat_hiByte (w : Word) : w.hiByte.toNat = w.toNat / 256 := by
  have := w.isLt
  have joined := congrArg BitVec.toNat (wordOfBytes_hi_lo w)
  rw [toNat_wordOfBytes] at joined
  have := w.loByte.isLt
  omega

theorem toNat_loByte (w : Word) : w.loByte.toNat = w.toNat % 256 := by
  have joined := congrArg BitVec.toNat (wordOfBytes_hi_lo w)
  rw [toNat_wordOfBytes] at joined
  have := w.loByte.isLt
  omega

/-- A host write of a block inside memory: its bytes, and the rest as before. -/
theorem State.writeBytes_effect (s : State) {a : Nat} {bs : List Byte} (h : a + bs.length ≤ 4096) :
    (∀ j, j < bs.length → (s.writeBytes a bs).readByte (a + j) = bs.getD j 0) ∧
      (∀ c, c < a ∨ a + bs.length ≤ c → (s.writeBytes a bs).readByte c = s.readByte c) ∧
      (s.writeBytes a bs).pc = s.pc ∧ KeepsRegs [] s (s.writeBytes a bs) ∧
      KeepsParts [.memory] s (s.writeBytes a bs) := by
  obtain ⟨written, kept, _⟩ := s.writeBytes_advance_effect h
  exact ⟨written, kept, rfl, KeepsRegs.of_file rfl, KeepsParts.of_fields⟩

/-- Settles O58: a write inside memory is a block write of one or two bytes, which the read gives back; outside memory
there is no access. -/
theorem hostPortWritesAndReadsBigEndian : Obligations.HostPortWritesAndReadsBigEndian := by
  intro a b v s
  refine ⟨fun inside => ?_, fun inside => ?_, fun outside => ?_, fun outside => ?_⟩
  · obtain ⟨written, kept, pc, regs, parts⟩ := s.writeBytes_effect (bs := [v.hiByte, v.loByte]) (a := a)
      (show a + 2 ≤ 4096 by omega)
    have high : (s.writeBytes a [v.hiByte, v.loByte]).readByte a = v.hiByte := written 0 (show 0 < 2 by decide)
    have low : (s.writeBytes a [v.hiByte, v.loByte]).readByte (a + 1) = v.loByte := written 1 (show 1 < 2 by decide)
    refine ⟨_, hostAccess_ok _ (by omega), ?_, ?_, fun c hc hc' => kept c ?_, pc, regs, parts, ?_⟩
    · rw [high, toNat_hiByte]
    · rw [low, toNat_loByte]
    · show c < a ∨ a + 2 ≤ c
      omega
    · rw [hostReply, if_pos inside, high, low, wordOfBytes_hi_lo]
  · obtain ⟨written, kept, pc, regs, parts⟩ := s.writeBytes_effect (bs := [b]) (a := a) (show a + 1 ≤ 4096 by omega)
    have byte : (s.writeBytes a [b]).readByte a = b := written 0 (show 0 < 1 by decide)
    refine ⟨_, hostAccess_ok _ (by omega), byte, fun c hc => kept c ?_, pc, regs, parts, ?_⟩
    · show c < a ∨ a + 1 ≤ c
      omega
    · rw [hostReply, if_pos inside, byte]
  · have no_reply : ¬ a ≤ 0xFFE := by omega
    exact ⟨hostAccess_outside _ (by decide) (by omega), if_neg no_reply, hostAccess_outside _ (by decide) (by omega),
      if_neg no_reply⟩
  · have no_reply : ¬ a ≤ 0xFFF := by omega
    exact ⟨hostAccess_outside _ (by decide) (by omega), if_neg no_reply, hostAccess_outside _ (by decide) (by omega),
      if_neg no_reply⟩

/-- Settles O59: the reads answer from the state and leave it; a word is its two bytes, high first. -/
theorem hostReadsChangeNothing : Obligations.HostReadsChangeNothing := by
  intro a row col s
  refine ⟨rfl, rfl, rfl, ⟨s.status, rfl, rfl, rfl, rfl, rfl, rfl, rfl⟩, fun inside => ?_, fun inside => ?_⟩
  · exact ⟨hostAccess_ok s (by omega), if_pos inside⟩
  · exact ⟨hostAccess_ok s (by omega), _, if_pos inside, toNat_wordOfBytes _ _⟩

end Sys2Proof.Machine
end

section
/-! Drawing a sprite (spec 44_display.md R162). -/

namespace Sys2Proof.Machine

/-- The pixels under the sprite are those under the bytes that DRW reads. -/
theorem spriteCovers_iff {s : State} {x y : RegIdx} {n : Fin 16} {row : Fin Config.displayHeight}
    {col : Fin Config.displayWidth} :
    SpriteCovers s x y n row col ↔
      BytesCover (s.reg x).toNat (s.reg y).toNat (s.readBytes s.base n.val) row col := by
  have len : (s.readBytes s.base n.val).length = n.val := s.length_readBytes _ _
  have byte {r : Nat} (hr : r < n.val) : (s.readBytes s.base n.val).getD r 0 = s.readByte (s.I.toNat + r) :=
    s.getD_readBytes _ hr
  constructor
  · rintro ⟨r, c, hr, hc, hrow, hcol, hbit⟩
    exact ⟨r, c, len.symm ▸ hr, hc, hrow, hcol, byte hr ▸ hbit⟩
  · rintro ⟨r, c, hr, hc, hrow, hcol, hbit⟩
    have hr' : r < n.val := len ▸ hr
    exact ⟨r, c, hr', hc, hrow, hcol, byte hr' ▸ hbit⟩

/-- The draw of DRW: covered pixels inverted, the others kept, and a collision exactly if a covered pixel was set. -/
theorem State.drawing_spec (s : State) (x y : RegIdx) (n : Fin 16) :
    (∀ row col, SpriteCovers s x y n row col →
      Framebuffer.pixel (s.drawing x y n).fb row col = !(s.pixel row col)) ∧
    (∀ row col, ¬ SpriteCovers s x y n row col →
      Framebuffer.pixel (s.drawing x y n).fb row col = s.pixel row col) ∧
    ((s.drawing x y n).collision = true ↔ ∃ row col, SpriteCovers s x y n row col ∧ s.pixel row col = true) := by
  have len : (s.readBytes s.base n.val).length ≤ 32 := by
    have := n.isLt
    rw [State.length_readBytes]; omega
  obtain ⟨pixels, collides⟩ := plotSprite_spec { fb := s.fb, collision := false } (s.reg x).toNat (s.reg y).toNat
    (s.readBytes s.base n.val) len
  simp only [spriteCovers_iff]
  refine ⟨fun row col => (pixels row col).1, fun row col => (pixels row col).2, collides.trans ?_⟩
  exact or_iff_right nofun

/-- DRW with no row, or with its rows in memory, completes (R162). -/
theorem exec_drw (x y : RegIdx) {n : Fin 16} {s : State} (h : n.val = 0 ∨ s.I.toNat + n.val - 1 ≤ 0xFFF) :
    exec (.drw x y n) s =
      .next ((s.setFb (s.drawing x y n).fb).setReg vf (flagByte (s.drawing x y n).collision)).advance := by
  have fits : firstOutOfRange s.base n.val = none :=
    firstOutOfRange_eq_none.2 (show n.val = 0 ∨ s.I.toNat + n.val ≤ 4096 by omega)
  exact exec_completed (i := .drw x y n) (congrArg (Option.map Trap.addressOutOfRange) fits)

/-- Settles O54: the pixels are the draw's and VF is its collision flag, written last. -/
theorem drwInvertsThePixelsUnderTheSprite : Obligations.DrwInvertsThePixelsUnderTheSprite := by
  intro x y n s h
  obtain ⟨inverted, kept, collides⟩ := s.drawing_spec x y n
  have flag : ((s.setFb (s.drawing x y n).fb).setReg vf (flagByte (s.drawing x y n).collision)).advance.reg 15 =
      flagByte (s.drawing x y n).collision := (s.setFb (s.drawing x y n).fb).reg_setReg_same vf _
  refine ⟨_, exec_drw x y h, inverted, kept, fun hit => ?_, fun miss => ?_, rfl,
    KeepsRegs.of_setReg (x := 15) rfl, KeepsParts.of_fields⟩
  · rw [flag, collides.2 hit, flagByte, if_pos rfl]
  · rw [flag, flagByte, if_neg (mt collides.1 miss)]

/-- Settles O55: the check of the sprite's block comes before the draw. -/
theorem drwOutOfRangeDrawsNothing : Obligations.DrwOutOfRangeDrawsNothing := by
  intro x y n s rows outside
  exact ⟨_, exec_trap (i := .drw x y n) (block_leaves (by omega) (show 4096 < s.I.toNat + n.val by omega)),
    s.faultEntry_block s.I⟩

/-- The sprite lies under the same pixels in two states with the same coordinates, `I` and memory. -/
theorem spriteCovers_congr {s t : State} {x y : RegIdx} {n : Fin 16} (hx : t.reg x = s.reg x) (hy : t.reg y = s.reg y)
    (hI : t.I = s.I) (hmem : ∀ a, t.readByte a = s.readByte a) (row : Fin Config.displayHeight)
    (col : Fin Config.displayWidth) : SpriteCovers t x y n row col ↔ SpriteCovers s x y n row col := by
  simp only [SpriteCovers, hx, hy, hI, hmem]

/-- Settles O56: neither draw moves the sprite, so (O54) each inverts the same pixels, and the second collides exactly
where the first turned a pixel on. -/
theorem drwTwiceRestoresTheFramebuffer : Obligations.DrwTwiceRestoresTheFramebuffer := by
  intro x y n s hx hy h
  obtain ⟨t, draw, inverted, kept, _, _, _, regs, parts⟩ := drwInvertsThePixelsUnderTheSprite x y n s h
  have same_I : t.I = s.I := parts .index (by decide)
  obtain ⟨u, redraw, inverted', kept', hit, miss, _⟩ := drwInvertsThePixelsUnderTheSprite x y n t (same_I ▸ h)
  have below_vf {r : RegIdx} (hr : r.val ≠ 15) : t.reg r = s.reg r :=
    regs r (by rw [List.mem_singleton]; exact fun e => hr (e ▸ rfl))
  have covers (row col) : SpriteCovers t x y n row col ↔ SpriteCovers s x y n row col :=
    spriteCovers_congr (below_vf hx) (below_vf hy) same_I (parts .memory (by decide)) row col
  refine ⟨t, u, draw, redraw, fun row col => ?_, fun flag => ?_, fun ⟨row, col, off, on⟩ => hit ⟨row, col, ?_, on⟩⟩
  · by_cases hc : SpriteCovers s x y n row col
    · rw [inverted' row col ((covers row col).2 hc), inverted row col hc, Bool.not_not]
    · rw [kept' row col (mt (covers row col).1 hc), kept row col hc]
  · by_contra none_on
    have no_hit : ¬ ∃ row col, SpriteCovers t x y n row col ∧ t.pixel row col = true := by
      rintro ⟨row, col, hc, on⟩
      have off : (!s.pixel row col) = true := (inverted row col ((covers row col).1 hc)).symm.trans on
      exact none_on ⟨row, col, by simpa using off, on⟩
    rw [miss no_hit] at flag
    exact absurd flag (by decide)
  · by_contra hc
    rw [kept row col (mt (covers row col).2 hc), off] at on
    cases on

end Sys2Proof.Machine
end
